-- ==== Sys2Proof/Word.lean ====
section
/-! DEFINITION. The word types of the block.

Bit 0 of every word is the least significant bit (00_scope.md R11). All words the spec adds, shifts
or masks are bit vectors of the width it gives them. -/

namespace Sys2Proof

/-- A word of `xorshift_prng_32`, and a command word (00_scope.md R6, 30_encoding.md R59). -/
abbrev Word32 := BitVec 32

/-- A word of `xorshift_prng_64`, an operand or a result register (00_scope.md R6, 30_encoding.md
R62, R63). -/
abbrev Word64 := BitVec 64

/-- The index `p` of `xorshift_prng_64`, in `[0, 16)` (10_state.md R22). -/
abbrev Index := BitVec 4

end Sys2Proof
end

