-- ==== Sys2Proof/Syntax.lean ====
section
/-! DEFINITION. The commands of the block: one constructor per row of spec/opcode_table.json
(30_encoding.md R60), and the four fields of a command word (R59).

The operand `ARG` is no part of a command word (30_encoding.md R62): it travels beside it and is
held in the state. -/

namespace Sys2Proof

/-- The selector `GSEL`: which bit generator a command names (00_scope.md R9). -/
inductive Gen where
  /-- `GSEL = 0`, `xorshift_prng_32`. -/
  | g32
  /-- `GSEL = 1`, `xorshift_prng_64`. -/
  | g64
deriving DecidableEq, Repr

/-- The selector `FSEL`: which floating-point format a command names (00_scope.md R9). -/
inductive Fmt where
  /-- `FSEL = 0`, binary32. -/
  | b32
  /-- `FSEL = 1`, binary64. -/
  | b64
deriving DecidableEq, Repr

/-- A command. `INIT`, `INITD`, `SEED`, `NEXT` and `DISCARD` have one row of the table per
generator; the other thirteen carry their selectors (30_encoding.md R60, spec/opcode_table.json). -/
inductive Instr where
  /-- `INIT` with `GSEL = 0` (40_bit_generators.md R82). -/
  | init32
  /-- `INIT` with `GSEL = 1` (40_bit_generators.md R92). -/
  | init64
  /-- `INITD` with `GSEL = 0` (40_bit_generators.md R83). -/
  | initd32
  /-- `INITD` with `GSEL = 1` (40_bit_generators.md R93). -/
  | initd64
  /-- `SEED` with `GSEL = 0` (40_bit_generators.md R84). -/
  | seed32
  /-- `SEED` with `GSEL = 1` (40_bit_generators.md R94). -/
  | seed64
  /-- `NEXT` with `GSEL = 0` (40_bit_generators.md R86). -/
  | next32
  /-- `NEXT` with `GSEL = 1` (40_bit_generators.md R96). -/
  | next64
  /-- `DISCARD` with `GSEL = 0` (40_bit_generators.md R85). -/
  | discard32
  /-- `DISCARD` with `GSEL = 1` (40_bit_generators.md R95). -/
  | discard64
  /-- `GETMIN` (40_bit_generators.md R100). -/
  | getmin (g : Gen)
  /-- `GETMAX` (40_bit_generators.md R101). -/
  | getmax (g : Gen)
  /-- `UINT` (41_uniform_int_sampler.md R112). -/
  | uint (g : Gen)
  /-- `UINTN` (41_uniform_int_sampler.md R113). -/
  | uintn (g : Gen)
  /-- `REAL` (42_fp_conversion_and_reals.md R141). -/
  | real (g : Gen) (f : Fmt)
  /-- `REALN` (42_fp_conversion_and_reals.md R142). -/
  | realn (g : Gen) (f : Fmt)
  /-- `REAL2` (42_fp_conversion_and_reals.md R143). -/
  | real2 (g : Gen) (f : Fmt)
  /-- `REALN2` (42_fp_conversion_and_reals.md R144). -/
  | realn2 (g : Gen) (f : Fmt)
  /-- `DISK` (43_disk_gaussian_sampler.md R161). -/
  | disk (g : Gen) (f : Fmt)
  /-- `GAUSS` (43_disk_gaussian_sampler.md R165). -/
  | gauss (g : Gen) (f : Fmt)
  /-- `GAUSSR` (43_disk_gaussian_sampler.md R166). -/
  | gaussr (g : Gen) (f : Fmt)
  /-- `EXPO` (43_disk_gaussian_sampler.md R168). -/
  | expo (g : Gen) (f : Fmt)
  /-- `EXPOR` (43_disk_gaussian_sampler.md R169). -/
  | expor (g : Gen) (f : Fmt)
deriving DecidableEq, Repr

/-- The four fields of the one command format `C` (30_encoding.md R59). -/
structure CommandFields where
  /-- Bits 31 to 10, reserved. -/
  rsv : BitVec 22
  /-- Bit 9. -/
  fsel : BitVec 1
  /-- Bit 8. -/
  gsel : BitVec 1
  /-- Bits 7 to 0. -/
  opcode : BitVec 8
deriving DecidableEq, Repr

/-- Does the command run the rejection loop of the disk sampler (43_disk_gaussian_sampler.md
R160)? -/
def Instr.samplesDisk : Instr → Bool
  | .disk _ _ | .gauss _ _ | .gaussr _ _ | .expo _ _ | .expor _ _ => true
  | .init32 | .init64 | .initd32 | .initd64 | .seed32 | .seed64 | .next32 | .next64 | .discard32
  | .discard64 | .getmin _ | .getmax _ | .uint _ | .uintn _ | .real _ _ | .realn _ _ | .real2 _ _
  | .realn2 _ _ => false

/-- The generator a command names (00_scope.md R9). -/
def Instr.gen : Instr → Gen
  | .init32 | .initd32 | .seed32 | .next32 | .discard32 => .g32
  | .init64 | .initd64 | .seed64 | .next64 | .discard64 => .g64
  | .getmin g | .getmax g | .uint g | .uintn g => g
  | .real g _ | .realn g _ | .real2 g _ | .realn2 g _ => g
  | .disk g _ | .gauss g _ | .gaussr g _ | .expo g _ | .expor g _ => g

/-- The floating-point format a command names, if it produces a floating-point value
(30_encoding.md R59, R60). -/
def Instr.fmt : Instr → Option Fmt
  | .real _ f | .realn _ f | .real2 _ f | .realn2 _ f => some f
  | .disk _ f | .gauss _ f | .gaussr _ f | .expo _ f | .expor _ f => some f
  | .init32 | .init64 | .initd32 | .initd64 | .seed32 | .seed64 | .next32 | .next64 | .discard32
  | .discard64 | .getmin _ | .getmax _ | .uint _ | .uintn _ => none

end Sys2Proof
end

