-- ==== Sys2Proof/WellFormed.lean ====
section
/-! DEFINITION. When a command word is legal, said over its fields as 30_encoding.md R66 and R67 say
it, without the decoder's masks. A term of `Instr` carries nothing but selectors of one bit each, so
every term of it is an instruction; what can be ill formed is a word. -/

namespace Sys2Proof

/-- The nine opcodes whose commands produce no floating-point value (30_encoding.md R60, R67). -/
def plainOpcodes : List (BitVec 8) :=
  [0x01, 0x02, 0x03, 0x04, 0x05, 0x06, 0x07, 0x10, 0x11]

/-- The nine opcodes whose commands use `FSEL` (30_encoding.md R60, R67). -/
def floatOpcodes : List (BitVec 8) :=
  [0x20, 0x21, 0x22, 0x23, 0x30, 0x31, 0x32, 0x33, 0x34]

namespace CommandFields

/-- `RSV` is zero (30_encoding.md R66). -/
def reservedClear (c : CommandFields) : Bool := c.rsv == 0

/-- `OPCODE` is one of the eighteen assigned values (30_encoding.md R66). -/
def opcodeAssigned (c : CommandFields) : Bool :=
  plainOpcodes.contains c.opcode || floatOpcodes.contains c.opcode

/-- `FSEL` is 1 only in a command that uses it (30_encoding.md R66). -/
def fselAllowed (c : CommandFields) : Bool := c.fsel == 0 || !plainOpcodes.contains c.opcode

/-- The word is legal: none of the three grounds of 30_encoding.md R66 holds. -/
def wellFormed (c : CommandFields) : Bool :=
  c.reservedClear && c.opcodeAssigned && c.fselAllowed

end CommandFields

end Sys2Proof
end

