-- ==== Sys2Proof/Decode.lean ====
section
/-! DEFINITION. The decoder of command words, by mask and match as 30_encoding.md R61 and
spec/opcode_table.json give them, and the encoder, by fields as R59 and R60 give them.

The decoder is total: every 32-bit word is either exactly one command or illegal (R61, R66). -/

namespace Sys2Proof

/-- The fields of a command word (30_encoding.md R59). -/
def CommandFields.ofWord (c : Word32) : CommandFields where
  rsv := c.extractLsb' 10 22
  fsel := c.extractLsb' 9 1
  gsel := c.extractLsb' 8 1
  opcode := c.extractLsb' 0 8

/-- The command word with given fields, most significant field first (30_encoding.md R59). -/
def CommandFields.toWord (c : CommandFields) : Word32 := c.rsv ++ c.fsel ++ c.gsel ++ c.opcode

/-- One row of the opcode table: the bits compared, their values, and the command the two selector
bits then name (30_encoding.md R61). -/
structure EncodingRow where
  /-- Bits that are compared. -/
  mask : Word32
  /-- What they must be. -/
  value : Word32
  /-- The command, given `GSEL` and `FSEL`. -/
  build : Gen → Fmt → Instr

/-- The generator family (spec/opcode_table.json, 40_bit_generators.md). -/
def generatorRows : List EncodingRow := [
  ⟨0xFFFFFFFF, 0x00000001, fun _ _ => .init32⟩,
  ⟨0xFFFFFFFF, 0x00000101, fun _ _ => .init64⟩,
  ⟨0xFFFFFFFF, 0x00000002, fun _ _ => .initd32⟩,
  ⟨0xFFFFFFFF, 0x00000102, fun _ _ => .initd64⟩,
  ⟨0xFFFFFFFF, 0x00000003, fun _ _ => .seed32⟩,
  ⟨0xFFFFFFFF, 0x00000103, fun _ _ => .seed64⟩,
  ⟨0xFFFFFFFF, 0x00000004, fun _ _ => .next32⟩,
  ⟨0xFFFFFFFF, 0x00000104, fun _ _ => .next64⟩,
  ⟨0xFFFFFFFF, 0x00000005, fun _ _ => .discard32⟩,
  ⟨0xFFFFFFFF, 0x00000105, fun _ _ => .discard64⟩,
  ⟨0xFFFFFEFF, 0x00000006, fun g _ => .getmin g⟩,
  ⟨0xFFFFFEFF, 0x00000007, fun g _ => .getmax g⟩]

/-- The integer sampler (spec/opcode_table.json, 41_uniform_int_sampler.md). -/
def integerRows : List EncodingRow := [
  ⟨0xFFFFFEFF, 0x00000010, fun g _ => .uint g⟩,
  ⟨0xFFFFFEFF, 0x00000011, fun g _ => .uintn g⟩]

/-- The reals (spec/opcode_table.json, 42_fp_conversion_and_reals.md). -/
def realRows : List EncodingRow := [
  ⟨0xFFFFFCFF, 0x00000020, fun g f => .real g f⟩,
  ⟨0xFFFFFCFF, 0x00000021, fun g f => .realn g f⟩,
  ⟨0xFFFFFCFF, 0x00000022, fun g f => .real2 g f⟩,
  ⟨0xFFFFFCFF, 0x00000023, fun g f => .realn2 g f⟩]

/-- The two-dimensional sampler (spec/opcode_table.json, 43_disk_gaussian_sampler.md). -/
def samplerRows : List EncodingRow := [
  ⟨0xFFFFFCFF, 0x00000030, fun g f => .disk g f⟩,
  ⟨0xFFFFFCFF, 0x00000031, fun g f => .gauss g f⟩,
  ⟨0xFFFFFCFF, 0x00000032, fun g f => .gaussr g f⟩,
  ⟨0xFFFFFCFF, 0x00000033, fun g f => .expo g f⟩,
  ⟨0xFFFFFCFF, 0x00000034, fun g f => .expor g f⟩]

/-- The whole opcode table, 23 rows (spec/opcode_table.json). -/
def encodingRows : List EncodingRow := generatorRows ++ integerRows ++ realRows ++ samplerRows

/-- Does a word match a row (30_encoding.md R61)? -/
def EncodingRow.matches (r : EncodingRow) (c : Word32) : Bool := c &&& r.mask == r.value

/-- `GSEL`, bit 8 (30_encoding.md R59). -/
def gselOf (c : Word32) : Gen := if c.getLsbD 8 then .g64 else .g32

/-- `FSEL`, bit 9 (30_encoding.md R59). -/
def fselOf (c : Word32) : Fmt := if c.getLsbD 9 then .b64 else .b32

/-- Why a word is illegal (30_encoding.md R66). All three are reported as `IllegalCommand`
(60_exceptions.md R191). -/
inductive DecodeError where
  /-- A bit of `RSV` is set. -/
  | reservedBitSet
  /-- `OPCODE` is not one of the eighteen assigned values. -/
  | opcodeUnassigned
  /-- `FSEL` is 1 in a command that does not use it. -/
  | fselNotUsed
deriving DecidableEq, Repr

/-- The first ground of 30_encoding.md R66, in the order that rule lists them, on which a word that
matches no row is illegal. -/
def illegalGround (c : Word32) : DecodeError :=
  let fields := CommandFields.ofWord c
  if !fields.reservedClear then .reservedBitSet
  else if !fields.opcodeAssigned then .opcodeUnassigned
  else .fselNotUsed

/-- The decoder (30_encoding.md R61). -/
def decode (c : Word32) : Except DecodeError Instr :=
  match encodingRows.find? (fun r => r.matches c) with
  | some r => .ok (r.build (gselOf c) (fselOf c))
  | none => .error (illegalGround c)

/-- The instruction read from the `nbits` low bits of `w`, every bit above them zero. The whole
instruction is the one 32-bit command word (30_encoding.md R59), which the port carries as one
piece (20_memory.md R41). -/
def decodeTableWord (nbits w : Nat) : Option Instr :=
  match decode (BitVec.ofNat 32 (w % 2 ^ nbits)) with
  | .ok i => some i
  | .error _ => none

/-- The opcode of a command (30_encoding.md R60). -/
def opcodeOf : Instr → BitVec 8
  | .init32 | .init64 => 0x01
  | .initd32 | .initd64 => 0x02
  | .seed32 | .seed64 => 0x03
  | .next32 | .next64 => 0x04
  | .discard32 | .discard64 => 0x05
  | .getmin _ => 0x06
  | .getmax _ => 0x07
  | .uint _ => 0x10
  | .uintn _ => 0x11
  | .real _ _ => 0x20
  | .realn _ _ => 0x21
  | .real2 _ _ => 0x22
  | .realn2 _ _ => 0x23
  | .disk _ _ => 0x30
  | .gauss _ _ => 0x31
  | .gaussr _ _ => 0x32
  | .expo _ _ => 0x33
  | .expor _ _ => 0x34

/-- The bit `GSEL` of a generator (30_encoding.md R59). -/
def gselBit : Gen → BitVec 1
  | .g32 => 0
  | .g64 => 1

/-- The bit `FSEL` of a command: its format's, and 0 where it uses none (30_encoding.md R59). -/
def fselBit : Option Fmt → BitVec 1
  | some .b64 => 1
  | some .b32 | none => 0

/-- The fields of a command's word (30_encoding.md R59, R60). -/
def fieldsOf (i : Instr) : CommandFields where
  rsv := 0
  fsel := fselBit i.fmt
  gsel := gselBit i.gen
  opcode := opcodeOf i

/-- The encoder: the one word of a command (30_encoding.md R59, R67). -/
def encode (i : Instr) : Word32 := (fieldsOf i).toWord

end Sys2Proof
end

