-- ==== Sys2Proof/Config.lean ====
section
/-! DEFINITION. What the spec leaves open: the free values of the model, and the one number that
only says how much of an unbounded loop one transition of the model runs.

The free values have no body: nothing in Lean can evaluate them, so a theorem about the model holds
for every value they may have (00_scope.md R8). -/

namespace Sys2Proof

/-- Which NaN encoding the `n`-th NaN written to a result register has, before it is brought into
the NaN encodings of its format (42_fp_conversion_and_reals.md R129, U3). FREE VALUE, safe;
log 4. -/
opaque Config.nanDraw : Nat → BitVec 64

/-- Where `LN_F` switches from the lower to the upper of two neighbouring values of the format: for
a format and the encoding of the lower neighbour, the least encoding of an argument that is given
the upper one (42_fp_conversion_and_reals.md R138, D22, U1). FREE VALUE, safe; log 5. -/
opaque Config.lnCut : Fmt → BitVec 64 → BitVec 64

/-- The level of `cmd_ready` before the first reset after power-up, which the spec leaves unspecified
(70_reset_and_hazards.md R224, U2). FREE VALUE, one level for the whole time; DESIGN CHOICE; log 10. -/
opaque Config.cmdReadyBeforeReset : Bool

/-- The level of `rsp_valid` before the first reset after power-up, which the spec leaves unspecified
(70_reset_and_hazards.md R224, U2). FREE VALUE, one level for the whole time; DESIGN CHOICE; log 10. -/
opaque Config.rspValidBeforeReset : Bool

/-- How many iterations of the rejection loop (43_disk_gaussian_sampler.md R161) one transition of
the model runs before it leaves the command in the block, still executing, for the next transition
to go on with. It is no cap: the loop never gives up (R163, D25). DESIGN CHOICE, safe; log 3. -/
def Config.diskBurst : Nat := 16

end Sys2Proof
end

