-- ==== Sys2Proof/Machine/Xorshift.lean ====
section
/-! DEFINITION. The two bit generators as pure machines: their state, one step, the output of that
step, construction, re-seeding and discarding (40_bit_generators.md). -/

namespace Sys2Proof.Machine

/-- The seed of a construction with none supplied (00_scope.md R6). -/
def defaultSeed : Nat := 123456789

/-! ### `xorshift_prng_32` -/

/-- The state of `xorshift_prng_32`: four words, every combination legal (10_state.md R20). -/
structure G32 where
  /-- The primary state word. -/
  x : Word32
  y : Word32
  z : Word32
  /-- The most recent output, once a step has been made. -/
  w : Word32
deriving DecidableEq, Repr

/-- One step of `xorshift_prng_32` (40_bit_generators.md R81, decision D9 for the width of `t`). -/
def G32.step (g : G32) : G32 :=
  let t := g.x ^^^ (g.x <<< 11)
  { x := g.y
    y := g.z
    z := g.w
    w := g.w ^^^ (g.w >>> 19) ^^^ (t ^^^ (t >>> 8)) }

/-- The value that step returns: the new `w` (40_bit_generators.md R81). -/
def G32.out (g : G32) : Word32 := g.step.w

/-- `n` steps (40_bit_generators.md R85: "by repeated invocation (no shortcut)"). -/
def G32.steps : Nat → G32 → G32
  | 0, g => g
  | n + 1, g => G32.steps n g.step

/-- Construction from a seed: no warm-up (40_bit_generators.md R82; the constants, 00_scope.md
R6). -/
def G32.init (seed : Word32) : G32 :=
  { x := seed, y := 362436069, z := 521288629, w := 88675123 }

/-- Re-seeding: the primary word only (40_bit_generators.md R84). -/
def G32.reseed (g : G32) (v : Word32) : G32 := { g with x := v }

/-! ### `xorshift_prng_64` -/

/-- The state of `xorshift_prng_64`: sixteen words and an index, every combination legal
(10_state.md R22). -/
structure G64 where
  p : Index
  s : Vector Word64 16
deriving DecidableEq, Repr

/-- Word `i` of the array. An index of four bits is always in range (20_memory.md R40). -/
def G64.word (g : G64) (i : Index) : Word64 := g.s[i.toNat]

/-- The array with word `i` replaced. -/
def G64.setWord (g : G64) (i : Index) (v : Word64) : G64 := { g with s := g.s.set i.toNat v }

/-- The output multiplier (00_scope.md R6). -/
def mult64 : Word64 := 1181783497276652981

/-- Mixing steps 1 and 2, on the word read after the index has moved (40_bit_generators.md R91,
decision D10). -/
def mixMoved (s1 : Word64) : Word64 :=
  let a := s1 ^^^ (s1 <<< 31)
  a ^^^ (a >>> 11)

/-- Mixing step 3, on the word read before the index moves (40_bit_generators.md R91, decision
D10). -/
def mixFirst (s0 : Word64) : Word64 := s0 ^^^ (s0 >>> 30)

/-- The index after `i`: `(i + 1) AND 15` (40_bit_generators.md R91, R99). -/
def nextIndex (i : Index) : Index := i + 1

/-- One step of `xorshift_prng_64` (40_bit_generators.md R91). -/
def G64.step (g : G64) : G64 :=
  let q := nextIndex g.p
  { g.setWord q (mixFirst (g.word g.p) ^^^ mixMoved (g.word q)) with p := q }

/-- The value that step returns: the stored word times the multiplier, modulo `2^64`
(40_bit_generators.md R91). -/
def G64.out (g : G64) : Word64 := g.step.word g.step.p * mult64

/-- `n` steps (40_bit_generators.md R95). -/
def G64.steps : Nat → G64 → G64
  | 0, g => g
  | n + 1, g => G64.steps n g.step

/-- The state construction starts from, before the warm-up: word 0 is the seed, the other words are
zero (40_bit_generators.md R92, decision D8). -/
def G64.seeded (seed : Word64) : G64 :=
  { p := seed.setWidth 4, s := (Vector.replicate 16 0).set 0 seed }

/-- The number of warm-up steps of a construction: the low 8 bits of the seed
(40_bit_generators.md R92, R99). -/
def warmUpCount (seed : Word64) : Nat := (seed &&& 255).toNat

/-- Construction from a seed, warm-up included (40_bit_generators.md R92). -/
def G64.init (seed : Word64) : G64 := G64.steps (warmUpCount seed) (G64.seeded seed)

/-- Re-seeding: word 0 only, whatever the index; no warm-up (40_bit_generators.md R94). -/
def G64.reseed (g : G64) (v : Word64) : G64 := g.setWord 0 v

end Sys2Proof.Machine
end

