-- ==== Sys2Proof/Machine/State.lean ====
section
/-! DEFINITION. The state of the machine: the two generators, the command or response in the block,
and the host's side of the two channels; why a transition can stop; the state after reset. -/

namespace Sys2Proof.Machine

/-- The four status codes the block produces (60_exceptions.md R190); their numbers are in
Machine/Flags.lean. -/
inductive Status where
  /-- The command completed. -/
  | ok
  /-- The command word is not one of the 54 legal words (R191). -/
  | illegalCommand
  /-- `UINTN` with a zero modulus (R192). -/
  | divideByZero
  /-- `s = 0` in `GAUSS`, `GAUSSR`, `EXPO` or `EXPOR` (R194). -/
  | domainError
deriving DecidableEq, Repr

/-- A response: a status and three result registers (30_encoding.md R55, R58, R63). -/
structure Response where
  status : Status
  res0 : Word64
  res1 : Word64
  res2 : Word64
deriving DecidableEq, Repr

/-- What the host presents on the command channel: `cmd` and `arg` (30_encoding.md R55, R56). -/
structure Command where
  cmd : Word32
  arg : Word64
deriving DecidableEq, Repr

/-- Where the block stands between two events of its ports (30_encoding.md R56, R57). -/
inductive Phase where
  /-- No command executing and no response waiting: `cmd_ready` is high. -/
  | idle
  /-- A command has been accepted and has not finished. -/
  | executing
  /-- `rsp_valid` is high and these are the response outputs. They have a value in this phase only
  (10_state.md R36, 30_encoding.md R57). -/
  | responding (r : Response)
deriving DecidableEq, Repr

/-- The whole machine: block and host (INVENTORY.md, State). -/
structure State where
  /-- `xorshift_prng_32` (10_state.md R20). -/
  g32 : G32
  /-- `xorshift_prng_64` (10_state.md R22). -/
  g64 : G64
  /-- The block's place between its handshakes (30_encoding.md R56, R57; 10_state.md R32). -/
  phase : Phase
  /-- The command word sampled at the last accepting edge (30_encoding.md R56; 10_state.md R32). -/
  cmd : Word32
  /-- The operand `ARG` sampled at the last accepting edge (30_encoding.md R56, R62). -/
  arg : Word64
  /-- Has `rst` been sampled high since power-up (70_reset_and_hazards.md R224)? -/
  resetSeen : Bool
  /-- Host side: the level of `rst` (30_encoding.md R55). -/
  rst : Bool
  /-- Host side: the level of `rsp_ready` (30_encoding.md R55). -/
  rspReady : Bool
  /-- Host side: the commands still to be presented, in order; the head is on the port, with
  `cmd_valid` high (30_encoding.md R55, R58). -/
  commands : List Command
  /-- Host side: the responses taken so far, oldest first (00_scope.md R10: "The only observable is
  the sequence of responses"). The model's own record. -/
  received : List Response
  /-- The model's own: how many free NaN encodings have been drawn (42_fp_conversion_and_reals.md
  R129). -/
  draws : Nat
deriving DecidableEq, Repr

/-- The faults that stop the machine: none. Each of the three faults of 60_exceptions.md R190 is
reported in a response, after which the block goes on (R196, R197), and so is a next state. -/
inductive Fault
deriving DecidableEq, Repr

/-- Why a transition has no meaning. -/
inductive Refusal where
  /-- Raised by `exec` for an instruction that has no meaning yet; none is left. Safe. -/
  | notModelled (mnemonic : String)
  /-- Raised by `step` when a command is presented before the first reset after power-up: "the block
  must not be given a command" then (10_state.md R36, 70_reset_and_hazards.md R224; U2 of
  93_implementation_defined.md: refuse). Safe. -/
  | commandBeforeReset
deriving DecidableEq, Repr

/-- The machine right after reset (70_reset_and_hazards.md R220, R222; 10_state.md R33 to R36): both
generators as construction with the default seed leaves them, the block idle. `cmd`, `arg`, the
host's side and `draws` have no reset value in the spec: DESIGN CHOICE, logs 4, 7, 8 and 9. -/
def State.reset : State where
  g32 := G32.init (BitVec.ofNat 32 defaultSeed)
  g64 := G64.init (BitVec.ofNat 64 defaultSeed)
  phase := .idle
  cmd := 0
  arg := 0
  resetSeen := true
  rst := false
  rspReady := true
  commands := []
  received := []
  draws := 0

end Sys2Proof.Machine
end

