-- ==== Sys2Proof/Machine/Flags.lean ====
section
/-! DEFINITION. What takes the place of flags. The block has no flag and no condition code that
outlives a command (10_state.md R27), and keeps no floating-point exception flag
(42_fp_conversion_and_reals.md R128); a response carries a 4-bit status (60_exceptions.md R190). -/

namespace Sys2Proof.Machine

/-- The code of a status on `rsp_status` (60_exceptions.md R190, decision D29). Codes 4 to 15 are
never produced. -/
def Status.code : Status → BitVec 4
  | .ok => 0
  | .illegalCommand => 1
  | .divideByZero => 2
  | .domainError => 3

/-- The three faults a command can raise (60_exceptions.md R191, R192, R194). -/
inductive Exception where
  | illegalCommand
  | divideByZero
  | domainError
deriving DecidableEq, Repr

/-- The status a fault is reported with (60_exceptions.md R190). -/
def Exception.status : Exception → Status
  | .illegalCommand => .illegalCommand
  | .divideByZero => .divideByZero
  | .domainError => .domainError

end Sys2Proof.Machine
end

