-- ==== Sys2Proof/Machine/Float.lean ====
section
/-! DEFINITION. The floating-point formats, their rounding and their primitives
(42_fp_conversion_and_reals.md R125 to R139).

A value is kept unpacked. Rounding works on an exact fraction of two natural numbers times a power
of two, so every primitive computes its exact result first and rounds once (R127). The sign, quiet
bit and payload of a NaN are chosen only where a NaN is written to a result register (R129;
log 4). -/

namespace Sys2Proof

/-- The precision `p` (42_fp_conversion_and_reals.md R126). -/
def Fmt.precision : Fmt → Nat
  | .b32 => 24
  | .b64 => 53

/-- The fraction width `m = p - 1` (42_fp_conversion_and_reals.md R126). -/
def Fmt.fracBits (F : Fmt) : Nat := F.precision - 1

/-- The exponent width `k` (42_fp_conversion_and_reals.md R126). -/
def Fmt.expBits : Fmt → Nat
  | .b32 => 8
  | .b64 => 11

/-- `emin` (42_fp_conversion_and_reals.md R126). -/
def Fmt.emin : Fmt → Int
  | .b32 => -126
  | .b64 => -1022

/-- `emax`, which is also the bias (42_fp_conversion_and_reals.md R126). -/
def Fmt.emax : Fmt → Int
  | .b32 => 127
  | .b64 => 1023

/-- The width of an encoding (42_fp_conversion_and_reals.md R126). -/
def Fmt.width : Fmt → Nat
  | .b32 => 32
  | .b64 => 64

/-- The exponent of the smallest quantum, `emin - m` (42_fp_conversion_and_reals.md R126, R127). -/
def Fmt.minQuantum (F : Fmt) : Int := F.emin - F.fracBits

namespace Machine

/-- A floating-point value (42_fp_conversion_and_reals.md R126). -/
inductive Fp where
  /-- A NaN, its encoding not chosen yet (R129). -/
  | nan
  /-- An infinity; `neg` is its sign. -/
  | inf (neg : Bool)
  /-- `(-1)^neg * mant * 2^exp`; a zero when `mant` is 0, and then `neg` is its sign. -/
  | fin (neg : Bool) (mant : Nat) (exp : Int)
deriving DecidableEq, Repr

/-- A zero of given sign (42_fp_conversion_and_reals.md R126). -/
def Fp.zero (F : Fmt) (neg : Bool) : Fp := .fin neg 0 F.minQuantum

/-! ### Rounding -/

/-- `floor (log2 (n / d))` for positive `n` and `d`. -/
def floorLog2 (n d : Nat) : Int :=
  let l : Int := (Nat.log2 n : Int) - (Nat.log2 d : Int)
  if d * 2 ^ l.toNat ≤ n * 2 ^ (-l).toNat then l else l - 1

/-- A positive real measured in quanta of a format: `(quot + rem / den) * 2^exp`. -/
structure Quanta where
  quot : Nat
  rem : Nat
  den : Nat
  exp : Int
deriving DecidableEq, Repr

/-- `n / d * 2^k` in the quanta of the format at that magnitude: `e = max (floor (log2 r)) emin` and
`q = 2^(e - p + 1)` (42_fp_conversion_and_reals.md R127). -/
def quantize (F : Fmt) (n d : Nat) (k : Int) : Quanta :=
  let e := max (floorLog2 n d + k) F.emin
  let t := e - (F.fracBits : Int)
  let num := n * 2 ^ (k - t).toNat
  let den := d * 2 ^ (t - k).toNat
  { quot := num / den, rem := num % den, den := den, exp := t }

/-- `m * 2^t` as a value of the format, or infinity: `2^(emax + 1)` is reached exactly when the
quantum is above `2^(emax - m)`, for a magnitude in its own quanta (42_fp_conversion_and_reals.md
R127). -/
def inRange (F : Fmt) (neg : Bool) (m : Nat) (t : Int) : Fp :=
  if F.emax - (F.fracBits : Int) < t then .inf neg else .fin neg m t

/-- `m` quanta `2^t`, `m` at most `2^p`, as a value of the format (42_fp_conversion_and_reals.md
R127). -/
def ofQuanta (F : Fmt) (neg : Bool) (m : Nat) (t : Int) : Fp :=
  if m = 2 ^ F.precision then inRange F neg (2 ^ F.fracBits) (t + 1) else inRange F neg m t

/-- Is the multiple above the nearest one, ties to even (42_fp_conversion_and_reals.md R127)? -/
def Quanta.roundsUp (q : Quanta) : Bool :=
  decide (q.den < 2 * q.rem) || (decide (q.den = 2 * q.rem) && decide (q.quot % 2 = 1))

/-- `round_F` of `n / d * 2^k` with the given sign; a zero keeps that sign
(42_fp_conversion_and_reals.md R127, R139). -/
def roundFrac (F : Fmt) (neg : Bool) (n d : Nat) (k : Int) : Fp :=
  if n = 0 then .zero F neg
  else
    let q := quantize F n d k
    ofQuanta F neg (if q.roundsUp then q.quot + 1 else q.quot) q.exp

/-! ### The primitives -/

/-- `cvt_F` of an exact integer; `cvt_F(0) = +0` (42_fp_conversion_and_reals.md R130). -/
def Fp.cvt (F : Fmt) (i : Int) : Fp := roundFrac F (decide (i < 0)) i.natAbs 1 0

/-- `1.0` (42_fp_conversion_and_reals.md R126). -/
def Fp.one (F : Fmt) : Fp := .cvt F 1

/-- `2.0` (42_fp_conversion_and_reals.md R126). -/
def Fp.two (F : Fmt) : Fp := .cvt F 2

/-- `-2.0` (42_fp_conversion_and_reals.md R126). -/
def Fp.minusTwo (F : Fmt) : Fp := .cvt F (-2)

/-- `mul_F` (42_fp_conversion_and_reals.md R133; NaN, R129; signs of zero, R139). -/
def Fp.mul (F : Fmt) (a b : Fp) : Fp :=
  match a, b with
  | .nan, _ => .nan
  | _, .nan => .nan
  | .inf na, .inf nb => .inf (na ^^ nb)
  | .inf na, .fin nb mb _ => if mb = 0 then .nan else .inf (na ^^ nb)
  | .fin na ma _, .inf nb => if ma = 0 then .nan else .inf (na ^^ nb)
  | .fin na ma ea, .fin nb mb eb => roundFrac F (na ^^ nb) (ma * mb) 1 (ea + eb)

/-- `div_F` (42_fp_conversion_and_reals.md R132; NaN, R129; division by zero and by infinity, R128;
signs of zero, R139). -/
def Fp.div (F : Fmt) (a b : Fp) : Fp :=
  match a, b with
  | .nan, _ => .nan
  | _, .nan => .nan
  | .inf _, .inf _ => .nan
  | .inf na, .fin nb _ _ => .inf (na ^^ nb)
  | .fin na _ _, .inf nb => .zero F (na ^^ nb)
  | .fin na ma ea, .fin nb mb eb =>
    if mb = 0 then (if ma = 0 then .nan else .inf (na ^^ nb))
    else roundFrac F (na ^^ nb) ma mb (ea - eb)

/-- A sign and a magnitude as an integer. -/
def signed (neg : Bool) (m : Nat) : Int := if neg then -(m : Int) else (m : Int)

/-- `add_F` (42_fp_conversion_and_reals.md R134; NaN, R129; signs of zero, R139: an exact zero sum is
negative only when both operands are). -/
def Fp.add (F : Fmt) (a b : Fp) : Fp :=
  match a, b with
  | .nan, _ => .nan
  | _, .nan => .nan
  | .inf na, .inf nb => if na = nb then .inf na else .nan
  | .inf na, .fin _ _ _ => .inf na
  | .fin _ _ _, .inf nb => .inf nb
  | .fin na ma ea, .fin nb mb eb =>
    let e := min ea eb
    let sum := signed na (ma * 2 ^ (ea - e).toNat) + signed nb (mb * 2 ^ (eb - e).toNat)
    roundFrac F (if sum = 0 then na && nb else decide (sum < 0)) sum.natAbs 1 e

/-- The integer square root of `n`, bit by bit from bit `b - 1` down, above the root `r` found so
far. -/
def isqrtFrom : Nat → Nat → Nat → Nat
  | 0, _, r => r
  | b + 1, n, r =>
    let r' := r + 2 ^ b
    isqrtFrom b n (if r' * r' ≤ n then r' else r)

/-- The integer square root: the greatest `r` with `r * r ≤ n`. -/
def isqrt (n : Nat) : Nat := isqrtFrom (Nat.log2 n / 2 + 1) n 0

/-- The correctly rounded root of `m * 2^e`, for `m` positive and `e` even
(42_fp_conversion_and_reals.md R135): the root is taken exactly to more than `p + 2` bits, and one
further bit says whether something is left over, so that rounding the result rounds the real
root. -/
def sqrtEven (F : Fmt) (m : Nat) (e : Int) : Fp :=
  let j := F.precision + 2
  let n := m * 2 ^ (2 * j)
  let r := isqrt n
  roundFrac F false (2 * r + (if r * r = n then 0 else 1)) 1 (e / 2 - (j : Int) - 1)

/-- The correctly rounded root of `m * 2^e`, for `m` positive (42_fp_conversion_and_reals.md
R135). -/
def sqrtPositive (F : Fmt) (m : Nat) (e : Int) : Fp :=
  if e % 2 = 1 then sqrtEven F (2 * m) (e - 1) else sqrtEven F m e

/-- `sqrt_F` (42_fp_conversion_and_reals.md R135). -/
def Fp.sqrt (F : Fmt) (a : Fp) : Fp :=
  match a with
  | .nan => .nan
  | .inf neg => if neg then .nan else .inf false
  | .fin neg m e => if m = 0 then a else if neg then .nan else sqrtPositive F m e

/-- `neg_F`: the sign inverted (42_fp_conversion_and_reals.md R136). -/
def Fp.neg : Fp → Fp
  | .nan => .nan
  | .inf n => .inf (!n)
  | .fin n m e => .fin (!n) m e

/-- `le_F`: `a <= b` as real numbers, false on a NaN (42_fp_conversion_and_reals.md R137). -/
def Fp.le (a b : Fp) : Bool :=
  match a, b with
  | .nan, _ => false
  | _, .nan => false
  | .inf na, .inf nb => na || !nb
  | .inf na, .fin _ _ _ => na
  | .fin _ _ _, .inf nb => !nb
  | .fin na ma ea, .fin nb mb eb =>
    let e := min ea eb
    decide (signed na (ma * 2 ^ (ea - e).toNat) ≤ signed nb (mb * 2 ^ (eb - e).toNat))

/-- `eq0_F`: true for `+0` and `-0` (42_fp_conversion_and_reals.md R137). -/
def Fp.eq0 : Fp → Bool
  | .fin _ m _ => m == 0
  | .nan | .inf _ => false

/-- Is the value a NaN? -/
def Fp.isNan : Fp → Bool
  | .nan => true
  | .inf _ | .fin _ _ _ => false

/-! ### Encodings -/

/-- The encoding with a given sign, biased exponent and fraction (42_fp_conversion_and_reals.md
R126). -/
def encoding (F : Fmt) (neg : Bool) (E T : Nat) : Word64 :=
  BitVec.ofNat 64 ((if neg then 2 ^ (F.width - 1) else 0) + E * 2 ^ F.fracBits + T)

/-- The all-ones biased exponent, of infinities and NaNs (42_fp_conversion_and_reals.md R126). -/
def expOnes (F : Fmt) : Nat := 2 ^ F.expBits - 1

/-- The NaN encoding a draw stands for: its top bit is the sign, its low bits the fraction, and the
one fraction that is no NaN's, zero, is taken for 1. Every NaN encoding of the format comes from
some draw and nothing else does (42_fp_conversion_and_reals.md R126, R129; log 4). -/
def nanEncoding (F : Fmt) (draw : Word64) : Word64 :=
  let T := draw.toNat % 2 ^ F.fracBits
  encoding F draw.msb (expOnes F) (if T = 0 then 1 else T)

/-- The encoding of a value, in the low bits of a result register (42_fp_conversion_and_reals.md
R126, 30_encoding.md R63); `draw` is used for a NaN only. -/
def Fp.pack (F : Fmt) (draw : Word64) : Fp → Word64
  | .nan => nanEncoding F draw
  | .inf neg => encoding F neg (expOnes F) 0
  | .fin neg m e =>
    if m < 2 ^ F.fracBits then encoding F neg 0 m
    else encoding F neg (e - F.minQuantum + 1).toNat (m - 2 ^ F.fracBits)

/-- The value an encoding stands for; of a binary32 only the low 32 bits are read
(42_fp_conversion_and_reals.md R126, 30_encoding.md R62). -/
def Fp.unpack (F : Fmt) (w : Word64) : Fp :=
  let n := w.toNat % 2 ^ F.width
  let neg := decide (2 ^ (F.width - 1) ≤ n)
  let E := n / 2 ^ F.fracBits % 2 ^ F.expBits
  let T := n % 2 ^ F.fracBits
  if E = expOnes F then (if T = 0 then .inf neg else .nan)
  else if E = 0 then .fin neg T F.minQuantum
  else .fin neg (2 ^ F.fracBits + T) (F.minQuantum + ((E : Int) - 1))

end Machine

end Sys2Proof
end

