-- ==== Sys2Proof/Machine/Convert.lean ====
section
/-! DEFINITION. The attributes of the generators and the two functions that turn a generator output
into a real (10_state.md R28; 42_fp_conversion_and_reals.md R130, R131, R140). -/

namespace Sys2Proof.Machine

/-- `MIN32` and `MIN64` (10_state.md R28). -/
def genMin : Gen → Word64
  | .g32 => 0
  | .g64 => 0

/-- `MAX32` and `MAX64`, in 64 bits (10_state.md R28, 00_scope.md R6). -/
def genMax : Gen → Word64
  | .g32 => 0x00000000FFFFFFFF
  | .g64 => 0xFFFFFFFFFFFFFFFF

/-- `sgn_W`: the two's-complement reading of the `W` low bits (00_scope.md R13). -/
def sgn (g : Gen) (v : Word64) : Int :=
  match g with
  | .g32 => (v.setWidth 32).toInt
  | .g64 => v.toInt

/-- `shl1`: the signed reading shifted left by one, in `W + 1` bits (42_fp_conversion_and_reals.md
R131, decision D17). -/
def shl1 (g : Gen) (v : Word64) : Int := 2 * sgn g v

/-- `FMAX(G, F)`: the declared maximum converted to the format (42_fp_conversion_and_reals.md
R130). -/
def fmax (g : Gen) (F : Fmt) : Fp := .cvt F ((genMax g).toNat : Int)

/-- `unorm` (42_fp_conversion_and_reals.md R140, decision D16). -/
def unorm (g : Gen) (F : Fmt) (v : Word64) : Fp := .div F (.cvt F (v.toNat : Int)) (fmax g F)

/-- `snorm` (42_fp_conversion_and_reals.md R140, decisions D16 and D17). -/
def snorm (g : Gen) (F : Fmt) (v : Word64) : Fp := .div F (.cvt F (shl1 g v)) (fmax g F)

end Sys2Proof.Machine
end

