-- ==== Sys2Proof/Machine/Operands.lean ====
section
/-! DEFINITION. The operand forms: the one operand is the whole of `ARG`, read as the command that
uses it says (30_encoding.md R62, R64). Bits a reading does not use are ignored. -/

namespace Sys2Proof.Machine

/-- The seed of `INIT` and `SEED` with `GSEL = 0`: `ARG[31:0]` (30_encoding.md R62). -/
def State.seed32 (s : State) : Word32 := s.arg.setWidth 32

/-- The seed of `INIT` and `SEED` with `GSEL = 1`: `ARG[63:0]` (30_encoding.md R62). -/
def State.seed64 (s : State) : Word64 := s.arg

/-- The count of `DISCARD`: `ARG[63:0]`, unsigned, for both generators (30_encoding.md R62). -/
def State.count (s : State) : Nat := s.arg.toNat

/-- The modulus of `UINTN`: `ARG[31:0]` for `GSEL = 0`, `ARG[63:0]` for `GSEL = 1` (30_encoding.md
R62). -/
def State.modulus (g : Gen) (s : State) : Word64 :=
  match g with
  | .g32 => (s.arg.setWidth 32).setWidth 64
  | .g64 => s.arg

/-- The radius of `GAUSSR` and `EXPOR`: the value whose encoding is `ARG[31:0]` for binary32,
`ARG[63:0]` for binary64 (30_encoding.md R62). -/
def State.radius (F : Fmt) (s : State) : Fp := .unpack F s.arg

end Sys2Proof.Machine
end

