-- ==== Sys2Proof/Machine/Ops.lean ====
section
/-! DEFINITION. The named operations over the state, shared by the commands and by `step`: a step of
the selected generator, responses and faults, the handshakes, reset, and one iteration and a burst
of iterations of the rejection loop. -/

namespace Sys2Proof.Machine

/-! ### The selected generator -/

/-- What the next step of the selected generator returns, zero-extended to 64 bits (00_scope.md R16,
30_encoding.md R63). -/
def State.stepOut (g : Gen) (s : State) : Word64 :=
  match g with
  | .g32 => s.g32.out.setWidth 64
  | .g64 => s.g64.out

/-- One step of the selected generator; the other one is untouched (10_state.md R24). -/
def State.advance (g : Gen) (s : State) : State :=
  match g with
  | .g32 => { s with g32 := s.g32.step }
  | .g64 => { s with g64 := s.g64.step }

/-- What `gen(G)` returns: the output masked with the declared maximum (41_uniform_int_sampler.md
R110). The step it makes is `State.advance`. -/
def State.genOut (g : Gen) (s : State) : Word64 := s.stepOut g &&& genMax g

/-! ### Responses, faults and their return -/

/-- Ends the command with status `OK` (00_scope.md R15). -/
def State.respond (r0 r1 r2 : Word64) (s : State) : State :=
  { s with phase := .responding { status := .ok, res0 := r0, res1 := r1, res2 := r2 } }

/-- Takes a fault: the command ends, its response has the fault's status and zero result registers,
nothing else changes, and what the command wrote before stays (60_exceptions.md R196). -/
def State.raise (e : Exception) (s : State) : State :=
  { s with phase := .responding { status := e.status, res0 := 0, res1 := 0, res2 := 0 } }

/-- The response handshake, after which the block is idle; there is no other return from a fault
(30_encoding.md R57, 60_exceptions.md R197). -/
def State.takeResponse (r : Response) (s : State) : State :=
  { s with phase := .idle, received := s.received ++ [r] }

/-- The number of NaN draws after `v` has been written to a result register
(42_fp_conversion_and_reals.md R129; log 4). -/
def drawsAfter (n : Nat) (v : Fp) : Nat := if v.isNan then n + 1 else n

/-- A value as a result register holds it, a NaN with the `n`-th free encoding (30_encoding.md R63,
42_fp_conversion_and_reals.md R129). -/
def resultWord (F : Fmt) (n : Nat) (v : Fp) : Word64 := v.pack F (Config.nanDraw n)

/-- Ends the command with one floating-point result (30_encoding.md R63). -/
def State.respondReal (F : Fmt) (v : Fp) (s : State) : State :=
  { s.respond (resultWord F s.draws v) 0 0 with draws := drawsAfter s.draws v }

/-- Ends the command with two floating-point results, each NaN among them with a draw of its own
(30_encoding.md R63). -/
def State.respondPair (F : Fmt) (v0 v1 : Fp) (s : State) : State :=
  let n1 := drawsAfter s.draws v0
  { s.respond (resultWord F s.draws v0) (resultWord F n1 v1) 0 with draws := drawsAfter n1 v1 }

/-- Ends the command with three floating-point results (30_encoding.md R63). -/
def State.respondTriple (F : Fmt) (v0 v1 v2 : Fp) (s : State) : State :=
  let n1 := drawsAfter s.draws v0
  let n2 := drawsAfter n1 v1
  { s.respond (resultWord F s.draws v0) (resultWord F n1 v1) (resultWord F n2 v2) with
    draws := drawsAfter n2 v2 }

/-! ### The rejection loop -/

/-- The coordinates and the squared radius of one iteration. -/
structure Candidate where
  x : Fp
  y : Fp
  s : Fp
deriving DecidableEq, Repr

/-- A point with its squared radius, three roundings and no fused operation
(43_disk_gaussian_sampler.md R161, decision D19). -/
def candidateOf (F : Fmt) (x y : Fp) : Candidate :=
  { x := x, y := y, s := .add F (.mul F x x) (.mul F y y) }

/-- The candidate of the iteration that starts in a state: `x` is drawn before `y`
(43_disk_gaussian_sampler.md R161, decision D18). -/
def State.candidate (g : Gen) (F : Fmt) (s : State) : Candidate :=
  candidateOf F (snorm g F (s.genOut g)) (snorm g F ((s.advance g).genOut g))

/-- The state after an iteration: two steps have been made (43_disk_gaussian_sampler.md R161). -/
def State.afterIteration (g : Gen) (s : State) : State := (s.advance g).advance g

/-- The acceptance test, `s <= 1.0` and nothing else (43_disk_gaussian_sampler.md R161, R164). -/
def Candidate.accepted (F : Fmt) (c : Candidate) : Bool := c.s.le (.one F)

/-- Up to `n` iterations of the rejection loop: the accepted candidate, if one of them accepts, and
the state after the last iteration made (43_disk_gaussian_sampler.md R161, R163). -/
def diskLoop : Nat → Gen → Fmt → State → Option Candidate × State
  | 0, _, _, s => (none, s)
  | n + 1, g, F, s =>
    if (s.candidate g F).accepted F then (some (s.candidate g F), s.afterIteration g)
    else diskLoop n g F (s.afterIteration g)

/-- A command that calls `disk` once and then ends as `finish` says. While no candidate has been
accepted the command stays in the block, executing, and the next transition goes on with it: the
loop has no cap (43_disk_gaussian_sampler.md R160, R163, decision D25; log 3). -/
def withDisk (g : Gen) (F : Fmt) (finish : Candidate → State → State) (s : State) :
    Host.Outcome State Fault Refusal :=
  match diskLoop Config.diskBurst g F s with
  | (some c, s') => .next (finish c s')
  | (none, s') => .next { s' with phase := .executing }

/-! ### Handshakes and reset -/

/-- `cmd_ready` (30_encoding.md R56; low while `rst` is high, 70_reset_and_hazards.md R221; log 12).
Before the first reset the spec leaves it unspecified (R224): a free value, DESIGN CHOICE, log 10. -/
def State.cmdReady (s : State) : Bool :=
  !s.rst && (if s.resetSeen then decide (s.phase = .idle) else Config.cmdReadyBeforeReset)

/-- `cmd_valid` (30_encoding.md R55). -/
def State.cmdValid (s : State) : Bool := !s.commands.isEmpty

/-- The response outputs while a response of the block is on them; else, and before the first reset,
there is nothing to be read (30_encoding.md R57, 70_reset_and_hazards.md R221, R224; logs 10
and 11). -/
def State.rspPort (s : State) : Option Response :=
  if s.rst || !s.resetSeen then none
  else
    match s.phase with
    | .responding r => some r
    | .idle | .executing => none

/-- `rsp_valid` (30_encoding.md R57; low while `rst` is high, 70_reset_and_hazards.md R221). Before the
first reset the spec leaves it unspecified (R224): a free value, DESIGN CHOICE, log 10. -/
def State.rspValid (s : State) : Bool :=
  !s.rst && (if s.resetSeen then s.rspPort.isSome else Config.rspValidBeforeReset)

/-- The command handshake: word and operand are sampled, the host presents what comes next
(30_encoding.md R56). -/
def State.accept (c : Command) (rest : List Command) (s : State) : State :=
  { s with phase := .executing, cmd := c.cmd, arg := c.arg, commands := rest }

/-- One clock edge with `rst` high: the generators as construction with the default seed leaves them,
nothing in the block, nothing accepted and nothing delivered (70_reset_and_hazards.md R220, R221,
R223). The host's side stays, and so does the count of free values (log 4). -/
def State.resetBlock (s : State) : State :=
  { State.reset with
    rst := s.rst
    rspReady := s.rspReady
    commands := s.commands
    received := s.received
    draws := s.draws }

/-! ### What the host may do between transitions (30_encoding.md R55 to R57) -/

/-- The host sets `rst`. -/
def State.driveRst (b : Bool) (s : State) : State := { s with rst := b }

/-- The host sets `rsp_ready`. -/
def State.driveRspReady (b : Bool) (s : State) : State := { s with rspReady := b }

/-- The host presents these commands, in order, from now on (30_encoding.md R56, R58). -/
def State.present (cs : List Command) (s : State) : State := { s with commands := cs }

end Sys2Proof.Machine
end

