-- ==== Sys2Proof/Machine/Generators.lean ====
section
/-! DEFINITION. The generator family: `INIT`, `INITD`, `SEED`, `NEXT`, `DISCARD`, `GETMIN`, `GETMAX`
(40_bit_generators.md). -/

namespace Sys2Proof.Machine

/-- `INIT` with `GSEL = 0` (40_bit_generators.md R82). -/
def execInit32 (s : State) : Host.Outcome State Fault Refusal :=
  .next ({ s with g32 := .init s.seed32 }.respond 0 0 0)

/-- `INIT` with `GSEL = 1`, warm-up included (40_bit_generators.md R92). -/
def execInit64 (s : State) : Host.Outcome State Fault Refusal :=
  .next ({ s with g64 := .init s.seed64 }.respond 0 0 0)

/-- `INITD` with `GSEL = 0` (40_bit_generators.md R83). -/
def execInitd32 (s : State) : Host.Outcome State Fault Refusal :=
  .next ({ s with g32 := .init (BitVec.ofNat 32 defaultSeed) }.respond 0 0 0)

/-- `INITD` with `GSEL = 1` (40_bit_generators.md R93). -/
def execInitd64 (s : State) : Host.Outcome State Fault Refusal :=
  .next ({ s with g64 := .init (BitVec.ofNat 64 defaultSeed) }.respond 0 0 0)

/-- `SEED` with `GSEL = 0`: `x` only (40_bit_generators.md R84). -/
def execSeed32 (s : State) : Host.Outcome State Fault Refusal :=
  .next ({ s with g32 := s.g32.reseed s.seed32 }.respond 0 0 0)

/-- `SEED` with `GSEL = 1`: word 0 only (40_bit_generators.md R94). -/
def execSeed64 (s : State) : Host.Outcome State Fault Refusal :=
  .next ({ s with g64 := s.g64.reseed s.seed64 }.respond 0 0 0)

/-- `NEXT` with `GSEL = 0` (40_bit_generators.md R86). -/
def execNext32 (s : State) : Host.Outcome State Fault Refusal :=
  .next ((s.advance .g32).respond (s.stepOut .g32) 0 0)

/-- `NEXT` with `GSEL = 1` (40_bit_generators.md R96). -/
def execNext64 (s : State) : Host.Outcome State Fault Refusal :=
  .next ((s.advance .g64).respond (s.stepOut .g64) 0 0)

/-- `DISCARD` with `GSEL = 0` (40_bit_generators.md R85). -/
def execDiscard32 (s : State) : Host.Outcome State Fault Refusal :=
  .next ({ s with g32 := .steps s.count s.g32 }.respond 0 0 0)

/-- `DISCARD` with `GSEL = 1` (40_bit_generators.md R95). -/
def execDiscard64 (s : State) : Host.Outcome State Fault Refusal :=
  .next ({ s with g64 := .steps s.count s.g64 }.respond 0 0 0)

/-- `GETMIN` (40_bit_generators.md R100). -/
def execGetmin (g : Gen) (s : State) : Host.Outcome State Fault Refusal :=
  .next (s.respond (genMin g) 0 0)

/-- `GETMAX` (40_bit_generators.md R101). -/
def execGetmax (g : Gen) (s : State) : Host.Outcome State Fault Refusal :=
  .next (s.respond (genMax g) 0 0)

end Sys2Proof.Machine
end

