-- ==== Sys2Proof/Machine/Integers.lean ====
section
/-! DEFINITION. The bounded-integer sampler: `UINT` and `UINTN` (41_uniform_int_sampler.md). -/

namespace Sys2Proof.Machine

/-- One `gen(G)` reduced by a modulus that is not zero; the bias of the reduction is part of the
behaviour (41_uniform_int_sampler.md R112 to R114). -/
def boundedInteger (g : Gen) (n : Word64) (s : State) : State :=
  (s.advance g).respond (s.genOut g % n) 0 0

/-- `UINT`: the default modulus is `MAX(G)` itself (41_uniform_int_sampler.md R112). -/
def execUint (g : Gen) (s : State) : Host.Outcome State Fault Refusal :=
  .next (boundedInteger g (genMax g) s)

/-- `UINTN`: a zero modulus is a fault found before any step (41_uniform_int_sampler.md R113,
60_exceptions.md R192). -/
def execUintn (g : Gen) (s : State) : Host.Outcome State Fault Refusal :=
  .next (if s.modulus g = 0 then s.raise .divideByZero else boundedInteger g (s.modulus g) s)

end Sys2Proof.Machine
end

