-- ==== Sys2Proof/Machine/Reals.lean ====
section
/-! DEFINITION. The uniform reals: `REAL`, `REALN`, `REAL2`, `REALN2`
(42_fp_conversion_and_reals.md R141 to R144). Each makes one step. -/

namespace Sys2Proof.Machine

/-- `REAL` (42_fp_conversion_and_reals.md R141). -/
def execReal (g : Gen) (F : Fmt) (s : State) : Host.Outcome State Fault Refusal :=
  .next ((s.advance g).respondReal F (unorm g F (s.genOut g)))

/-- `REALN` (42_fp_conversion_and_reals.md R142). -/
def execRealn (g : Gen) (F : Fmt) (s : State) : Host.Outcome State Fault Refusal :=
  .next ((s.advance g).respondReal F (snorm g F (s.genOut g)))

/-- `REAL2` (42_fp_conversion_and_reals.md R143). -/
def execReal2 (g : Gen) (F : Fmt) (s : State) : Host.Outcome State Fault Refusal :=
  .next ((s.advance g).respondReal F (.mul F (unorm g F (s.genOut g)) (.two F)))

/-- `REALN2` (42_fp_conversion_and_reals.md R144). -/
def execRealn2 (g : Gen) (F : Fmt) (s : State) : Host.Outcome State Fault Refusal :=
  .next ((s.advance g).respondReal F (.mul F (snorm g F (s.genOut g)) (.two F)))

end Sys2Proof.Machine
end

