-- ==== Sys2Proof/Machine/Ln.lean ====
section
/-! DEFINITION. The logarithm `LN_F` (42_fp_conversion_and_reals.md R138; log 5).

The spec leaves the function open and asks four things of it: `LN_F(1.0) = +0`, negative below 1,
monotone, and faithful (one of the two values of the format next to the real logarithm). This file
computes the lower neighbour from a rational lower bound of the real logarithm, close enough to it
that no value of the format stands between; the upper neighbour is the next value above. Which of
the two is returned is free, but for the monotony: the arguments that share a lower neighbour are cut
in two at a free point `Config.lnCut`. -/

namespace Sys2Proof.Machine

/-- The fixed point of the bound: `lnScale` fractional bits (log 5). -/
def lnScale : Nat := 256

/-- How many terms of the series are summed (log 5). -/
def lnTerms : Nat := 90

/-- The sum of the first `n` terms of `artanh (u / v) = Σ (u / v)^(2k + 1) / (2k + 1)`, each rounded
down to `lnScale` fractional bits. -/
def artanhSum (u v : Nat) : Nat → Nat
  | 0 => 0
  | n + 1 =>
    artanhSum u v n + 2 ^ lnScale * u ^ (2 * n + 1) / (v ^ (2 * n + 1) * (2 * n + 1))

/-- A lower bound of `2^lnScale * ln (c / d)`, for `d ≤ c ≤ 2 d`: `ln (c / d) = 2 artanh ((c - d) /
(c + d))`. -/
def lnRatioLow (c d : Nat) : Nat := 2 * artanhSum (c - d) (c + d) lnTerms

/-- An upper bound of `2^lnScale * ln (c / d)`, for `d ≤ c ≤ 2 d`: each term has lost less than one
unit, and the terms left out add up to less than one. -/
def lnRatioHigh (c d : Nat) : Nat := lnRatioLow c d + 2 * (lnTerms + 1)

/-- The binary exponent of `m * 2^e`, for `m` positive. -/
def lnExponent (m : Nat) (e : Int) : Int := (Nat.log2 m : Int) + e

/-- A lower bound of `2^lnScale * ln (m * 2^e)`, for `m` positive: `ln (m * 2^e) = (log2 m + e) ln 2
+ ln (m / 2^(log2 m))`. -/
def lnLow (m : Nat) (e : Int) : Int :=
  let k := lnExponent m e
  k * (if 0 ≤ k then lnRatioLow 2 1 else lnRatioHigh 2 1 : Nat) + lnRatioLow m (2 ^ Nat.log2 m)

/-- The value of the format next to `n / d * 2^k` towards zero. -/
def nextInward (F : Fmt) (neg : Bool) (n d : Nat) (k : Int) : Fp :=
  if n = 0 then .zero F neg
  else
    let q := quantize F n d k
    ofQuanta F neg q.quot q.exp

/-- The value of the format next to `n / d * 2^k` away from zero. -/
def nextOutward (F : Fmt) (neg : Bool) (n d : Nat) (k : Int) : Fp :=
  if n = 0 then .zero F neg
  else
    let q := quantize F n d k
    ofQuanta F neg (if q.rem = 0 then q.quot else q.quot + 1) q.exp

/-- The greatest value of the format that is at most `i / 2^lnScale`. -/
def atMost (F : Fmt) (i : Int) : Fp :=
  if i < 0 then nextOutward F true i.natAbs 1 (-(lnScale : Int))
  else nextInward F false i.natAbs 1 (-(lnScale : Int))

/-- The next value of the format above a canonical finite value. -/
def nextAbove (F : Fmt) (v : Fp) : Fp :=
  match v with
  | .nan => .nan
  | .inf neg => .inf neg
  | .fin true m e =>
    if m = 2 ^ F.fracBits ∧ F.minQuantum < e then .fin true (2 ^ F.precision - 1) (e - 1)
    else .fin true (m - 1) e
  | .fin false m e => ofQuanta F false (m + 1) e

/-- The lower neighbour of `ln (m * 2^e)` in the format (42_fp_conversion_and_reals.md R138,
LN-4). -/
def lnBelow (F : Fmt) (m : Nat) (e : Int) : Fp := atMost F (lnLow m e)

/-- The upper neighbour of `ln (m * 2^e)` in the format (42_fp_conversion_and_reals.md R138,
LN-4). -/
def lnAbove (F : Fmt) (m : Nat) (e : Int) : Fp := nextAbove F (lnBelow F m e)

/-- `LN_F` on a value above zero that is not 1: one of its two neighbours, chosen by the free cut
point of the lower one. Encodings of positive values are ordered as the values are, so the choice is
monotone (42_fp_conversion_and_reals.md R138, LN-3). -/
def lnFaithful (F : Fmt) (m : Nat) (e : Int) : Fp :=
  let lo := lnBelow F m e
  if (Fp.fin false m e).pack F 0 < Config.lnCut F (lo.pack F 0) then lo else lnAbove F m e

/-- `LN_F` (42_fp_conversion_and_reals.md R138, LN-1 for 1.0). Its domain is the finite values above
zero; the rules apply it to nothing else, and elsewhere it is given the value NaN (log 6). -/
def Fp.ln (F : Fmt) (a : Fp) : Fp :=
  if a = .one F then .zero F false
  else
    match a with
    | .fin false m e => if m = 0 then .nan else lnFaithful F m e
    | _ => .nan

end Sys2Proof.Machine
end

