-- ==== Sys2Proof/Machine/Sampler.lean ====
section
/-! DEFINITION. The two-dimensional sampler: `DISK`, `GAUSS`, `GAUSSR`, `EXPO`, `EXPOR`
(43_disk_gaussian_sampler.md). -/

namespace Sys2Proof.Machine

/-- What follows the logarithm in `gauss_fac`: `sqrt ((-2.0 * l) / s)` (43_disk_gaussian_sampler.md
R165, decision D20). -/
def gaussFactorOf (F : Fmt) (l s : Fp) : Fp := .sqrt F (.div F (.mul F (.minusTwo F) l) s)

/-- `gauss_fac` (43_disk_gaussian_sampler.md R165). -/
def gaussFactor (F : Fmt) (s : Fp) : Fp := gaussFactorOf F (.ln F s) s

/-- What follows the logarithm in `expo_fac`: `(-l) / s` (43_disk_gaussian_sampler.md R168, decision
D21). -/
def expoFactorOf (F : Fmt) (l s : Fp) : Fp := .div F l.neg s

/-- `expo_fac` (43_disk_gaussian_sampler.md R168). -/
def expoFactor (F : Fmt) (s : Fp) : Fp := expoFactorOf F (.ln F s) s

/-- How a transform ends once a point has been accepted: `DomainError` if `s` is zero, the draws
staying made, and both coordinates times the factor otherwise (43_disk_gaussian_sampler.md R165,
R167, R168). -/
def finishPoint (F : Fmt) (factor : Fmt → Fp → Fp) (c : Candidate) (s : State) : State :=
  if c.s.eq0 then s.raise .domainError
  else
    let fac := factor F c.s
    s.respondPair F (.mul F c.x fac) (.mul F c.y fac)

/-- The same with a radius, which multiplies each finished output with a rounding of its own and is
not checked (43_disk_gaussian_sampler.md R166, R169, R173, decisions D20 and D23). -/
def finishScaled (F : Fmt) (factor : Fmt → Fp → Fp) (c : Candidate) (s : State) : State :=
  if c.s.eq0 then s.raise .domainError
  else
    let fac := factor F c.s
    s.respondPair F (.mul F (.mul F c.x fac) (s.radius F)) (.mul F (.mul F c.y fac) (s.radius F))

/-- `DISK`: it does not test `s` for zero (43_disk_gaussian_sampler.md R161, R164). -/
def execDisk (g : Gen) (F : Fmt) (s : State) : Host.Outcome State Fault Refusal :=
  withDisk g F (fun c t => t.respondTriple F c.x c.y c.s) s

/-- `GAUSS` (43_disk_gaussian_sampler.md R165). -/
def execGauss (g : Gen) (F : Fmt) (s : State) : Host.Outcome State Fault Refusal :=
  withDisk g F (finishPoint F gaussFactor) s

/-- `GAUSSR` (43_disk_gaussian_sampler.md R166). -/
def execGaussr (g : Gen) (F : Fmt) (s : State) : Host.Outcome State Fault Refusal :=
  withDisk g F (finishScaled F gaussFactor) s

/-- `EXPO` (43_disk_gaussian_sampler.md R168). -/
def execExpo (g : Gen) (F : Fmt) (s : State) : Host.Outcome State Fault Refusal :=
  withDisk g F (finishPoint F expoFactor) s

/-- `EXPOR` (43_disk_gaussian_sampler.md R169). -/
def execExpor (g : Gen) (F : Fmt) (s : State) : Host.Outcome State Fault Refusal :=
  withDisk g F (finishScaled F expoFactor) s

end Sys2Proof.Machine
end

