-- ==== Sys2Proof/Machine/Dispatch.lean ====
section
/-! DEFINITION. One arm per constructor of `Instr`, each one direct call of its meaning. -/

namespace Sys2Proof.Machine

def exec (i : Instr) (s : State) : Host.Outcome State Fault Refusal :=
  match i with
  | .init32 => Sys2Proof.Machine.execInit32 s
  | .init64 => Sys2Proof.Machine.execInit64 s
  | .initd32 => Sys2Proof.Machine.execInitd32 s
  | .initd64 => Sys2Proof.Machine.execInitd64 s
  | .seed32 => Sys2Proof.Machine.execSeed32 s
  | .seed64 => Sys2Proof.Machine.execSeed64 s
  | .next32 => Sys2Proof.Machine.execNext32 s
  | .next64 => Sys2Proof.Machine.execNext64 s
  | .discard32 => Sys2Proof.Machine.execDiscard32 s
  | .discard64 => Sys2Proof.Machine.execDiscard64 s
  | .getmin g => Sys2Proof.Machine.execGetmin g s
  | .getmax g => Sys2Proof.Machine.execGetmax g s
  | .uint g => Sys2Proof.Machine.execUint g s
  | .uintn g => Sys2Proof.Machine.execUintn g s
  | .real g f => Sys2Proof.Machine.execReal g f s
  | .realn g f => Sys2Proof.Machine.execRealn g f s
  | .real2 g f => Sys2Proof.Machine.execReal2 g f s
  | .realn2 g f => Sys2Proof.Machine.execRealn2 g f s
  | .disk g f => Sys2Proof.Machine.execDisk g f s
  | .gauss g f => Sys2Proof.Machine.execGauss g f s
  | .gaussr g f => Sys2Proof.Machine.execGaussr g f s
  | .expo g f => Sys2Proof.Machine.execExpo g f s
  | .expor g f => Sys2Proof.Machine.execExpor g f s

end Sys2Proof.Machine
end

