-- ==== Sys2Proof/Machine/Fetch.lean ====
section
/-! DEFINITION. The command in the block, and the events of the block's ports that `step` chooses
from. -/

namespace Sys2Proof.Machine

/-- Runs the command in the block: decode comes before everything else, and an illegal word is a
fault that changes no generator (60_exceptions.md R191, R199). -/
def runCommand (s : State) : Host.Outcome State Fault Refusal :=
  match decode s.cmd with
  | .ok i => exec i s
  | .error _ => .next (s.raise .illegalCommand)

/-- The untimed `exec` of 30_encoding.md R58, with the fuel 43_disk_gaussian_sampler.md R163 suggests:
the command in the block is run, burst after burst, to its response; none where `n` bursts do not
reach one. A command never responds where no number of bursts does. -/
def runToResponse : Nat → State → Option (Response × State)
  | 0, _ => none
  | n + 1, s =>
    match runCommand s with
    | .next t =>
      match t.phase with
      | .responding r => some (r, t)
      | .executing => runToResponse n t
      | .idle => none
    | .fault _ | .refused _ => none

/-- Before the first reset: the block waits, and must not be given a command
(70_reset_and_hazards.md R224, U2; log 10). -/
def beforeReset (s : State) : Host.Outcome State Fault Refusal :=
  match s.commands with
  | [] => .next s
  | _ :: _ => .refused .commandBeforeReset

/-- One transition of a block that has been reset, with `rst` low: idle, it accepts and runs the
command presented, or waits; executing, it goes on; responding, it waits for `rsp_ready`
(30_encoding.md R56 to R58, 60_exceptions.md R207). -/
def runBlock (s : State) : Host.Outcome State Fault Refusal :=
  match s.phase with
  | .idle =>
    match s.commands with
    | [] => .next s
    | c :: rest => runCommand (s.accept c rest)
  | .executing => runCommand s
  | .responding r => .next (if s.rspReady then s.takeResponse r else s)

/-- One transition: reset has priority over everything (70_reset_and_hazards.md R221). -/
def transition (s : State) : Host.Outcome State Fault Refusal :=
  if s.rst then .next s.resetBlock
  else if s.resetSeen then runBlock s
  else beforeReset s

/-- The command port with a word on it, the operand zero, and the block ready to accept it: reset
released, nothing in the block. -/
def portWord (w : Word32) (s : State) : State :=
  { s with
    rst := false
    resetSeen := true
    phase := .idle
    commands := { cmd := w, arg := 0 } :: s.commands }

end Sys2Proof.Machine
end

