-- ==== Sys2Proof/Machine/Step.lean ====
section
/-! DEFINITION. The one step of the machine, and how an instruction is placed where the next step
takes it from. -/

namespace Sys2Proof.Machine

/-- One transition (30_encoding.md R58, 70_reset_and_hazards.md R229). -/
def step (s : State) : Host.Outcome State Fault Refusal := transition s

/-- The instruction in the `nbits` low bits of `w` stands on the command port, its operand zero, and
the next step accepts it (30_encoding.md R56; log 2). -/
def State.withFetchWord (s : State) (nbits w : Nat) : State :=
  portWord (BitVec.ofNat 32 (w % 2 ^ nbits)) s

end Sys2Proof.Machine
end

