-- ==== Sys2Proof/Machine/Assembler.lean ====
section
/-! DEFINITION. The textual command language: how a line names a command and what its operand
assembles to, and the two pseudo-commands (30_encoding.md R68, R69). Purely notational (decision
D35): nothing else of the model uses it. -/

namespace Sys2Proof.Machine

/-- What a command's operand is written as (30_encoding.md R60, R62, R68). -/
inductive OperandKind where
  /-- The command takes no operand. -/
  | absent
  /-- A seed, a count or a modulus: an unsigned integer literal. -/
  | integer
  /-- A radius in the given format. -/
  | radius (F : Fmt)
deriving DecidableEq, Repr

/-- The operand a command takes (30_encoding.md R60, R62). -/
def operandKind : Instr → OperandKind
  | .init32 | .init64 | .seed32 | .seed64 | .discard32 | .discard64 | .uintn _ => .integer
  | .gaussr _ F | .expor _ F => .radius F
  | .initd32 | .initd64 | .next32 | .next64 | .getmin _ | .getmax _ | .uint _ => .absent
  | .real _ _ | .realn _ _ | .real2 _ _ | .realn2 _ _ => .absent
  | .disk _ _ | .gauss _ _ | .expo _ _ => .absent

/-- An operand as written on a line (30_encoding.md R68). -/
inductive OperandText where
  /-- Nothing is written. -/
  | absent
  /-- An unsigned integer literal. -/
  | integer (n : Nat)
  /-- A decimal real literal: sign, digits, and how many of the digits stand after the point. -/
  | decimal (neg : Bool) (digits scale : Nat)
  /-- `bits:0x...`, the encoding of a radius. -/
  | bits (n : Nat)
deriving DecidableEq, Repr

/-- The operand word of a line, none if the line is not of the language: a decimal radius is
converted with round-to-nearest-even (30_encoding.md R68). Three points R68 leaves open are the
model's (DESIGN CHOICE, log 19): an operand that is not written is 0, an integer of more than 64 bits
is refused, and so is a `bits:0x...` radius wider than its format. -/
def operandWord : OperandKind → OperandText → Option Word64
  | .absent, .absent => some 0
  | .integer, .integer n => if n < 2 ^ 64 then some (BitVec.ofNat 64 n) else none
  | .radius F, .decimal neg digits scale =>
    some ((roundFrac F neg digits (10 ^ scale) 0).pack F 0)
  | .radius F, .bits n => if n < 2 ^ F.width then some (BitVec.ofNat 64 n) else none
  | _, _ => none

/-- The command a line assembles to (30_encoding.md R68). -/
def assembleLine (i : Instr) (o : OperandText) : Option Command :=
  (operandWord (operandKind i) o).map fun a => { cmd := encode i, arg := a }

/-- `RESEED.<g> <v>`, which expands to `SEED.<g> <v>` (30_encoding.md R69). -/
def reseedLine : Gen → Nat → Option Command
  | .g32, v => assembleLine .seed32 (.integer v)
  | .g64, v => assembleLine .seed64 (.integer v)

/-- `SKIP.<g>`, which expands to `DISCARD.<g> 1` (30_encoding.md R69). -/
def skipLine : Gen → Option Command
  | .g32 => assembleLine .discard32 (.integer 1)
  | .g64 => assembleLine .discard64 (.integer 1)

/-- The mnemonic without its suffixes (30_encoding.md R60). -/
def baseMnemonic : Instr → String
  | .init32 | .init64 => "INIT"
  | .initd32 | .initd64 => "INITD"
  | .seed32 | .seed64 => "SEED"
  | .next32 | .next64 => "NEXT"
  | .discard32 | .discard64 => "DISCARD"
  | .getmin _ => "GETMIN"
  | .getmax _ => "GETMAX"
  | .uint _ => "UINT"
  | .uintn _ => "UINTN"
  | .real _ _ => "REAL"
  | .realn _ _ => "REALN"
  | .real2 _ _ => "REAL2"
  | .realn2 _ _ => "REALN2"
  | .disk _ _ => "DISK"
  | .gauss _ _ => "GAUSS"
  | .gaussr _ _ => "GAUSSR"
  | .expo _ _ => "EXPO"
  | .expor _ _ => "EXPOR"

/-- The suffix `.<g>` (30_encoding.md R68). -/
def genSuffix : Gen → String
  | .g32 => ".32"
  | .g64 => ".64"

/-- The suffix `.<f>`, of the commands that use `FSEL` (30_encoding.md R68). -/
def fmtSuffix : Option Fmt → String
  | none => ""
  | some .b32 => ".s"
  | some .b64 => ".d"

/-- How a line names a command (30_encoding.md R68). -/
def commandText (i : Instr) : String := baseMnemonic i ++ genSuffix i.gen ++ fmtSuffix i.fmt

end Sys2Proof.Machine
end

