-- ==== Sys2Proof/Safety.lean ====
section
/-! DEFINITION. The terms claims about the machine are stated in: runs, the shape of a response, the
invariant, the iterations of the rejection loop, the real numbers floating-point values stand for,
and what correct rounding is. -/

namespace Sys2Proof.Machine

/-! ### Runs -/

/-- `k` transitions, stopping at the first that is no next state. -/
def run : Nat → State → Host.Outcome State Fault Refusal
  | 0, s => .next s
  | k + 1, s =>
    match step s with
    | .next t => run k t
    | .fault e => .fault e
    | .refused e => .refused e

/-- The same command run `n` times over, each from the state the one before left. -/
def repeatExec (i : Instr) : Nat → State → Host.Outcome State Fault Refusal
  | 0, s => .next s
  | n + 1, s =>
    match exec i s with
    | .next t => repeatExec i n t
    | .fault e => .fault e
    | .refused e => .refused e

/-- The block has been reset, `rst` is low, and it can act (70_reset_and_hazards.md R222). -/
def State.live (s : State) : Prop := s.rst = false ∧ s.resetSeen = true

/-- The command in the block, run for as long as it takes, ends with the response `r` in the state `t`
(30_encoding.md R58). -/
def State.respondsWith (s : State) (r : Response) (t : State) : Prop :=
  ∃ n, runToResponse n s = some (r, t)

/-- The command in the block never responds (30_encoding.md R58). -/
def State.neverResponds (s : State) : Prop := ∀ n, runToResponse n s = none

/-- `t` is the left fold of the commands of a list over `s`: each is accepted, run to its response
however long that takes, and the response taken; no state is where one never responds
(30_encoding.md R58). -/
def foldsTo : List Command → State → State → Prop
  | [], s, t => t = s
  | c :: rest, s, t =>
    ∃ r u, (s.accept c rest).respondsWith r u ∧ foldsTo rest (u.takeResponse r) t

/-! ### Operands and selectors -/

/-- The two selector bits of a command word, `0x100 * GSEL + 0x200 * FSEL` (30_encoding.md R59). -/
def selectorBits (g : Gen) (F : Fmt) : Word32 :=
  (match g with | .g32 => 0 | .g64 => 0x100) + (match F with | .b32 => 0 | .b64 => 0x200)

/-- Do two operands agree in every bit the command uses (30_encoding.md R62)? -/
def sameOperand (i : Instr) (a b : Word64) : Prop :=
  match i with
  | .init32 | .seed32 | .uintn .g32 | .gaussr _ .b32 | .expor _ .b32 =>
    a.extractLsb' 0 32 = b.extractLsb' 0 32
  | .init64 | .seed64 | .discard32 | .discard64 | .uintn .g64 | .gaussr _ .b64 | .expor _ .b64 =>
    a = b
  | .initd32 | .initd64 | .next32 | .next64 | .getmin _ | .getmax _ | .uint _ => True
  | .real _ _ | .realn _ _ | .real2 _ _ | .realn2 _ _ | .disk _ _ | .gauss _ _ | .expo _ _ => True

/-! ### Responses and the invariant -/

/-- The encoding of a zero of given sign (42_fp_conversion_and_reals.md R126, R139). -/
def signedZero (F : Fmt) (neg : Bool) : Word64 :=
  match neg, F with
  | false, _ => 0
  | true, .b32 => 0x80000000
  | true, .b64 => 0x8000000000000000

/-- "On every status other than `OK` the three result registers are zero" (60_exceptions.md
R190). -/
def Response.zeroUnlessOk (r : Response) : Prop :=
  r.status ≠ .ok → r.res0 = 0 ∧ r.res1 = 0 ∧ r.res2 = 0

/-- A word fits into the low 32 bits of a result register. -/
def fitsLow (w : Word64) : Prop := w.toNat < 2 ^ 32

/-- A response a command may give: which status it may have (60_exceptions.md R200), which result
registers it leaves zero (30_encoding.md R63), and that a binary32 result stands in the low 32
bits (R63). -/
def Response.fitsInstr (i : Instr) (r : Response) : Prop :=
  r.status ≠ .illegalCommand ∧
  (r.status = .divideByZero → ∃ g, i = .uintn g) ∧
  (r.status = .domainError → i.samplesDisk = true ∧ ∀ g F, i ≠ .disk g F) ∧
  (i ∈ [Instr.init32, .init64, .initd32, .initd64, .seed32, .seed64, .discard32, .discard64] →
    r.res0 = 0) ∧
  (i.samplesDisk = false → r.res1 = 0 ∧ r.res2 = 0) ∧
  ((∀ g F, i ≠ .disk g F) → r.res2 = 0) ∧
  (i.fmt = some .b32 → fitsLow r.res0 ∧ fitsLow r.res1 ∧ fitsLow r.res2)

/-- A response the command word `c` may have: `IllegalCommand` for an illegal word and for no other
(60_exceptions.md R191, R200). -/
def Response.fits (c : Word32) (r : Response) : Prop :=
  r.zeroUnlessOk ∧
  match decode c with
  | .ok i => r.fitsInstr i
  | .error _ => r.status = .illegalCommand

/-- What holds of the machine at every moment: a waiting response is one its command may have, a
command stays executing from one transition to the next only in the rejection loop
(43_disk_gaussian_sampler.md R160, R163), and every response delivered is zero unless `OK`. -/
structure State.Inv (s : State) : Prop where
  waiting : ∀ r, s.phase = .responding r → r.fits s.cmd
  looping : s.phase = .executing → ∃ i, decode s.cmd = .ok i ∧ i.samplesDisk = true
  delivered : ∀ r ∈ s.received, r.zeroUnlessOk

/-! ### The rejection loop -/

/-- The state after `k` iterations of the rejection loop: `2 k` steps of the selected generator
(43_disk_gaussian_sampler.md R163). -/
def State.afterIterations (g : Gen) : Nat → State → State
  | 0, s => s
  | k + 1, s => State.afterIterations g k (s.afterIteration g)

/-- Iterations 1 to `k` of the loop that starts in `s` reject and iteration `k + 1` accepts
(43_disk_gaussian_sampler.md R163). -/
def State.acceptsAfter (g : Gen) (F : Fmt) (k : Nat) (s : State) : Prop :=
  (∀ j < k, ((s.afterIterations g j).candidate g F).accepted F = false) ∧
  ((s.afterIterations g k).candidate g F).accepted F = true

/-- The first `k` iterations of the loop that starts in `s` reject (43_disk_gaussian_sampler.md
R163). -/
def State.rejectsFor (g : Gen) (F : Fmt) (k : Nat) (s : State) : Prop :=
  ∀ j < k, ((s.afterIterations g j).candidate g F).accepted F = false

/-! ### Floating-point values as real numbers -/

/-- The real number a finite value stands for; 0 for the others (42_fp_conversion_and_reals.md
R126). -/
def Fp.isReal (v : Fp) (r : ℝ) : Prop :=
  ∃ neg m e, v = .fin neg m e ∧ r = (if neg then -1 else 1) * (m : ℝ) * (2 : ℝ) ^ e

/-- A finite value in the one form its encoding has: normal, or subnormal or zero at the smallest
quantum; infinities and NaNs count as such (42_fp_conversion_and_reals.md R126). -/
def Fp.canonical (F : Fmt) : Fp → Prop
  | .nan | .inf _ => True
  | .fin _ m e =>
    m < 2 ^ F.precision ∧ F.minQuantum ≤ e ∧ e ≤ F.emax - F.fracBits ∧
      (m < 2 ^ F.fracBits → e = F.minQuantum)

/-- `v` is `round_F(r)`, for `r` not zero, as 42_fp_conversion_and_reals.md R127 defines it: `e` is
`max (floor (log2 |r|)) emin`, the quantum `q` is `2^(e - p + 1)`, the result is the multiple of
`q` nearest to `|r|`, of two equally near ones the even one, with the sign of `r`, and infinity
from `2^(emax + 1)` on. -/
def RoundsTo (F : Fmt) (r : ℝ) (v : Fp) : Prop :=
  ∃ (e : Int) (m : Nat),
    F.emin ≤ e ∧ abs r < (2 : ℝ) ^ (e + 1) ∧ (F.emin < e → (2 : ℝ) ^ e ≤ abs r) ∧
    abs ((m : ℝ) * (2 : ℝ) ^ (e - F.fracBits) - abs r) ≤ (2 : ℝ) ^ (e - F.fracBits) / 2 ∧
    (abs ((m : ℝ) * (2 : ℝ) ^ (e - F.fracBits) - abs r) = (2 : ℝ) ^ (e - F.fracBits) / 2 →
      m % 2 = 0) ∧
    ((2 : ℝ) ^ (F.emax + 1) ≤ (m : ℝ) * (2 : ℝ) ^ (e - F.fracBits) →
      v = .inf (decide (r < 0))) ∧
    ((m : ℝ) * (2 : ℝ) ^ (e - F.fracBits) < (2 : ℝ) ^ (F.emax + 1) →
      v.canonical F ∧ ∃ m' e', v = .fin (decide (r < 0)) m' e' ∧
        (m' : ℝ) * (2 : ℝ) ^ e' = (m : ℝ) * (2 : ℝ) ^ (e - F.fracBits))

end Sys2Proof.Machine
end

