-- ==== Sys2Proof/Certificates/Slice0/Obligations.lean ====
section
/-! DEFINITION. The statements for the provers. Each docstring names the rule of spec/ it
formalises. -/

open Sys2Proof Sys2Proof.Machine

/-! ### Command words -/

/-- Words written out from 30_encoding.md R59 and R60, one or more of each family, decode to the
commands they stand for. -/
def Obligations.WrittenWordsDecode : Prop :=
  decode 0x00000004 = .ok .next32 ∧ decode 0x00000101 = .ok .init64 ∧
  decode 0x00000107 = .ok (.getmax .g64) ∧ decode 0x00000011 = .ok (.uintn .g32) ∧
  decode 0x00000323 = .ok (.realn2 .g64 .b64) ∧ decode 0x00000231 = .ok (.gauss .g32 .b64) ∧
  decode 0x00000132 = .ok (.gaussr .g64 .b32)

/-- The decoder and the encoder are inverse to each other: no bit of a word is dropped and no word
has two readings (30_encoding.md R59 to R61). -/
def Obligations.DecodeEncodeInverse : Prop :=
  (∀ i, decode (encode i) = .ok i) ∧ (∀ c i, decode c = .ok i → encode i = c)

/-- Which words are legal, and that there are 54 of them, 18 without `FSEL` and 36 with it (what the
spec infers in 30_encoding.md R67 from R59 to R61). -/
def Obligations.LegalWordsNumber54 : Prop :=
  (∀ c : Word32, (∃ i, decode c = .ok i) ↔
    ((c.extractLsb' 0 8 ∈ [0x01#8, 0x02, 0x03, 0x04, 0x05, 0x06, 0x07, 0x10, 0x11] ∧
        c.extractLsb' 9 23 = 0) ∨
     (c.extractLsb' 0 8 ∈ [0x20#8, 0x21, 0x22, 0x23, 0x30, 0x31, 0x32, 0x33, 0x34] ∧
        c.extractLsb' 10 22 = 0))) ∧
  ∃ l : List Word32, l.Nodup ∧ l.length = 54 ∧ ∀ c, c ∈ l ↔ ∃ i, decode c = .ok i

/-- The assembler on the four examples of 30_encoding.md R68 and on the two pseudo-commands of R69.
That a line without an operand assembles to the operand 0 is the model's choice, log 19: R68 prints
only the words of `NEXT.32` and `GAUSS.32.d`. -/
def Obligations.AssemblerExamples : Prop :=
  assembleLine .next32 .absent = some ⟨0x00000004, 0⟩ ∧
  assembleLine .init64 (.integer 42) = some ⟨0x00000101, 0x000000000000002A⟩ ∧
  assembleLine (.gauss .g32 .b64) .absent = some ⟨0x00000231, 0⟩ ∧
  assembleLine (.gaussr .g64 .b32) (.decimal false 25 1) =
    some ⟨0x00000132, 0x0000000040200000⟩ ∧
  reseedLine .g64 7 = some ⟨0x00000103, 7⟩ ∧ skipLine .g32 = some ⟨0x00000005, 1⟩ ∧
  commandText (.gaussr .g64 .b32) = "GAUSSR.64.s"

/-! ### The machine around the commands -/

/-- A step runs the decoded command: accepted from the port, with word and operand sampled and the
head of the host's list consumed (30_encoding.md R56, R58), or already in the block. That a
command can be in the block at the start of a step is the model's choice, log 3: a long rejection
loop is cut into transitions, and the next one goes on with it. -/
def Obligations.StepRunsDecodedCommand : Prop :=
  ∀ (s : State) (i : Instr), s.live →
    (∀ c rest, s.phase = .idle → s.commands = c :: rest → decode c.cmd = .ok i →
      step s =
        exec i { s with phase := .executing, cmd := c.cmd, arg := c.arg, commands := rest }) ∧
    (s.phase = .executing → decode s.cmd = .ok i → step s = exec i s)

/-- 60_exceptions.md R191: a word with a reserved bit set, an unassigned opcode, or `FSEL = 1` where
there is no format, changes neither generator and is answered with status 1 and zeros. -/
def Obligations.IllegalWordIsReported : Prop :=
  Status.illegalCommand.code = 1 ∧
  ∀ (s : State) (c : Command) (rest : List Command), s.live → s.phase = .idle →
    s.commands = c :: rest →
    (c.cmd.extractLsb' 10 22 ≠ 0 ∨
      c.cmd.extractLsb' 0 8 ∉ plainOpcodes ++ floatOpcodes ∨
      (c.cmd.extractLsb' 0 8 ∈ plainOpcodes ∧ c.cmd.extractLsb' 9 1 = 1)) →
    step s = .next { s with
      phase := .responding ⟨.illegalCommand, 0, 0, 0⟩
      cmd := c.cmd
      arg := c.arg
      commands := rest }

/-- 30_encoding.md R57: a waiting response is held unchanged until `rsp_ready` is high, is then
taken, and the block is idle after it; meanwhile no command is accepted. -/
def Obligations.ResponseHeldUntilTaken : Prop :=
  ∀ (s : State) (r : Response), s.live → s.phase = .responding r →
    s.rspPort = some r ∧ s.cmdReady = false ∧
    (s.rspReady = false → step s = .next s) ∧
    (s.rspReady = true →
      step s = .next { s with phase := .idle, received := s.received ++ [r] } ∧
      ({ s with phase := .idle, received := s.received ++ [r] } : State).cmdReady = true ∧
      ({ s with phase := .idle, received := s.received ++ [r] } : State).rspValid = false)

/-- With `rst` high, whatever the block is doing, both generators get the values of the table, the
block is idle, nothing is accepted and nothing delivered (70_reset_and_hazards.md R220, R221, R223).
That the levels the host drives stay as they are is the model's choice, log 8, and that the count of
NaN draws does is log 4's. -/
def Obligations.ResetWinsAndRestores : Prop :=
  ∀ s : State, s.rst = true →
    s.cmdReady = false ∧ s.rspValid = false ∧
    ∃ t, step s = .next t ∧ t.phase = .idle ∧ t.resetSeen = true ∧
      t.g32 = ⟨0x075BCD15, 0x159A55E5, 0x1F123BB5, 0x05491333⟩ ∧
      t.g64 = ⟨10, #v[0x03AD9336560B266C, 0x03AD933658BD6AB5, 0x03AD9336560B266C,
        0x03AD933658BD6AB5, 0x03AD9336560B266C, 0x03AD933658BD6AB5, 0x03AD9336560B266C,
        0x03AD933658BD6AB5, 0x03AD9336560B266C, 0x03AD933658BD6AB5, 0x03AD9336560B266C,
        0, 0, 0, 0, 0]⟩ ∧
      t.commands = s.commands ∧ t.received = s.received ∧ t.rst = s.rst ∧
      t.rspReady = s.rspReady ∧ t.draws = s.draws

/-- The state after reset: the table of both generators (70_reset_and_hazards.md R220), and the
block idle with `rsp_valid` low (R222). -/
def Obligations.ResetStateIsTheTable : Prop :=
  State.reset.g32 = ⟨0x075BCD15, 0x159A55E5, 0x1F123BB5, 0x05491333⟩ ∧
  State.reset.g64.p = 10 ∧
  (∀ i : Index, State.reset.g64.word i =
    if 10 < i then 0
    else if i &&& 1 = 0 then 0x03AD9336560B266C else 0x03AD933658BD6AB5) ∧
  State.reset.phase = .idle ∧ State.reset.rspValid = false

/-- Once reset, the machine never stops: every transition answers a next state, in which it is still
reset (60_exceptions.md R196 to R198: faults are responses, and the next command runs). -/
def Obligations.NeverStopsOnceReset : Prop :=
  ∀ s : State, s.resetSeen = true → ∃ t, step s = .next t ∧ t.resetSeen = true

/-- A command presented before the first reset is refused, and nothing else happens before it: the
model's choice, log 10, for what the host must not do (70_reset_and_hazards.md R224). -/
def Obligations.NoCommandBeforeReset : Prop :=
  ∀ s : State, s.resetSeen = false → s.rst = false →
    (s.commands ≠ [] → step s = .refused .commandBeforeReset) ∧
    (s.commands = [] → step s = .next s)

/-- The invariant holds of the state after reset. -/
def Obligations.InvAtReset : Prop := State.reset.Inv

/-- Every step keeps the invariant: a waiting response is one its command may have (statuses,
60_exceptions.md R200; zero registers and low words, 30_encoding.md R63 and 60_exceptions.md R190),
and only a command with a rejection loop stays in the block (43_disk_gaussian_sampler.md R160). -/
def Obligations.StepKeepsInv : Prop :=
  ∀ s t : State, s.Inv → step s = .next t → t.Inv

/-- A run of the block is the left fold of `exec` over the host's list, and a command responds or
never does (30_encoding.md R58). From an idle block, some number of transitions leads to an idle
block with nothing left to present in exactly the state the fold gives, however many iterations the
rejection loops take; and a command never responds exactly where it has a rejection loop no
iteration of which accepts (43_disk_gaussian_sampler.md R163). How a run is cut into transitions is
the model's choice, logs 1 and 3; the number of transitions is not fixed here. -/
def Obligations.RunIsFoldOfCommands : Prop :=
  (∀ s t : State, s.live → s.phase = .idle → s.rspReady = true →
    ((∃ n, run n s = .next t ∧ t.phase = .idle ∧ t.commands = []) ↔ foldsTo s.commands s t)) ∧
  ∀ s : State, s.neverResponds ↔
    ∃ i F, decode s.cmd = .ok i ∧ i.samplesDisk = true ∧ i.fmt = some F ∧
      ∀ k, s.rejectsFor i.gen F k

/-- 10_state.md R24: a command of one generator neither writes nor reads the other: the other is
unchanged, and with another content of it the command does the same. -/
def Obligations.OtherGeneratorIsolated : Prop :=
  (∀ (i : Instr) (s t : State) (h : G64), i.gen = .g32 → exec i s = .next t →
    t.g64 = s.g64 ∧ exec i { s with g64 := h } = .next { t with g64 := h }) ∧
  (∀ (i : Instr) (s t : State) (h : G32), i.gen = .g64 → exec i s = .next t →
    t.g32 = s.g32 ∧ exec i { s with g32 := h } = .next { t with g32 := h })

/-- Operand bits a command does not use affect neither the state nor the response (30_encoding.md
R62). -/
def Obligations.UnusedOperandBitsIgnored : Prop :=
  ∀ (i : Instr) (s t : State) (a : Word64), sameOperand i s.arg a → exec i s = .next t →
    exec i { s with arg := a } = .next { t with arg := a }

/-- A command leaves alone what is neither a generator nor its response: the sampled word and
operand, the host's side of both channels, and, where it names no format, the count of NaN draws
(30_encoding.md R56, R57, 20_memory.md R51). The count is the model's own field, log 4. The
generator a command does not select is the subject of `OtherGeneratorIsolated`. -/
def Obligations.CommandsLeaveInterfaceAlone : Prop :=
  ∀ (i : Instr) (s t : State), exec i s = .next t →
    t.cmd = s.cmd ∧ t.arg = s.arg ∧ t.resetSeen = s.resetSeen ∧ t.rst = s.rst ∧
    t.rspReady = s.rspReady ∧ t.commands = s.commands ∧ t.received = s.received ∧
    (i.fmt = none → t.draws = s.draws)

/-! ### The generator family -/

/-- 40_bit_generators.md R82: `INIT.32`. -/
def Obligations.Init32Constructs : Prop :=
  decode 0x00000001 = .ok .init32 ∧
  ∀ s : State, exec .init32 s = .next { s with
    g32 := ⟨s.arg.extractLsb' 0 32, 362436069, 521288629, 88675123⟩
    phase := .responding ⟨.ok, 0, 0, 0⟩ }

/-- 40_bit_generators.md R83: `INITD.32`, and that it leaves `G32` as reset does. -/
def Obligations.Initd32Constructs : Prop :=
  decode 0x00000002 = .ok .initd32 ∧
  ∀ s : State, exec .initd32 s = .next { s with
    g32 := ⟨123456789, 362436069, 521288629, 88675123⟩
    phase := .responding ⟨.ok, 0, 0, 0⟩ } ∧
    State.reset.g32 = ⟨123456789, 362436069, 521288629, 88675123⟩

/-- 40_bit_generators.md R84: `SEED.32` writes `x` and nothing else of `G32`. -/
def Obligations.Seed32WritesPrimaryWord : Prop :=
  decode 0x00000003 = .ok .seed32 ∧
  ∀ s : State, exec .seed32 s = .next { s with
    g32 := ⟨s.arg.extractLsb' 0 32, s.g32.y, s.g32.z, s.g32.w⟩
    phase := .responding ⟨.ok, 0, 0, 0⟩ }

/-- 40_bit_generators.md R86 with the step of R81 written out: `NEXT.32`. -/
def Obligations.Next32StepsAndReturns : Prop :=
  decode 0x00000004 = .ok .next32 ∧
  ∀ s : State,
    let t := s.g32.x ^^^ (s.g32.x <<< 11)
    let w := s.g32.w ^^^ (s.g32.w >>> 19) ^^^ (t ^^^ (t >>> 8))
    exec .next32 s = .next { s with
      g32 := ⟨s.g32.y, s.g32.z, s.g32.w, w⟩
      phase := .responding ⟨.ok, w.setWidth 64, 0, 0⟩ }

/-- 40_bit_generators.md R85: `DISCARD.32` makes as many steps as its operand says. -/
def Obligations.Discard32RepeatsStep : Prop :=
  decode 0x00000005 = .ok .discard32 ∧
  ∀ s : State, exec .discard32 s = .next { s with
    g32 := G32.step^[s.arg.toNat] s.g32
    phase := .responding ⟨.ok, 0, 0, 0⟩ }

/-- 40_bit_generators.md R92: `INIT.64`: the index, the sixteen words, then the warm-up. The last
clause, the index afterwards, is what the spec infers in R92's corner case (d) from R91 and R92. -/
def Obligations.Init64ConstructsAndWarmsUp : Prop :=
  decode 0x00000101 = .ok .init64 ∧
  ∀ s : State, ∃ g : G64,
    g.p = s.arg.extractLsb' 0 4 ∧ g.word 0 = s.arg ∧ (∀ i, i ≠ 0 → g.word i = 0) ∧
    exec .init64 s = .next { s with
      g64 := G64.step^[s.arg.toNat % 256] g
      phase := .responding ⟨.ok, 0, 0, 0⟩ } ∧
    (G64.step^[s.arg.toNat % 256] g).p = 2 * s.arg.extractLsb' 0 4

/-- 40_bit_generators.md R93: `INITD.64` leaves `G64` as reset does, with index 10, and the next
`NEXT.64` returns the value of the rule's example. -/
def Obligations.Initd64Constructs : Prop :=
  decode 0x00000102 = .ok .initd64 ∧
  State.reset.g64.p = 10 ∧ State.reset.g64.out = 0x7D7784C1452452F9 ∧
  ∀ s : State,
    exec .initd64 s = .next { s with
      g64 := State.reset.g64
      phase := .responding ⟨.ok, 0, 0, 0⟩ } ∧
    exec .init64 { s with arg := 123456789 } = .next { s with
      arg := 123456789
      g64 := State.reset.g64
      phase := .responding ⟨.ok, 0, 0, 0⟩ }

/-- 40_bit_generators.md R94: `SEED.64` writes word 0 and nothing else of `G64`. -/
def Obligations.Seed64WritesWordZero : Prop :=
  decode 0x00000103 = .ok .seed64 ∧
  ∀ s : State, ∃ g : G64,
    g.p = s.g64.p ∧ g.word 0 = s.arg ∧ (∀ i, i ≠ 0 → g.word i = s.g64.word i) ∧
    exec .seed64 s = .next { s with g64 := g, phase := .responding ⟨.ok, 0, 0, 0⟩ }

/-- 40_bit_generators.md R96 with the step of R91 written out: `NEXT.64`. -/
def Obligations.Next64StepsAndReturns : Prop :=
  decode 0x00000104 = .ok .next64 ∧
  ∀ s : State,
    let s0 := s.g64.word s.g64.p
    let q : Index := (s.g64.p + 1) &&& 15
    let s1 := s.g64.word q
    let a := s1 ^^^ (s1 <<< 31)
    let b := a ^^^ (a >>> 11)
    let c := s0 ^^^ (s0 >>> 30)
    ∃ g : G64, g.p = q ∧ g.word q = c ^^^ b ∧ (∀ i, i ≠ q → g.word i = s.g64.word i) ∧
      exec .next64 s = .next { s with
        g64 := g
        phase := .responding ⟨.ok, (c ^^^ b) * 1181783497276652981, 0, 0⟩ }

/-- 40_bit_generators.md R95: `DISCARD.64`, and how far the index has moved. -/
def Obligations.Discard64RepeatsStep : Prop :=
  decode 0x00000105 = .ok .discard64 ∧
  ∀ s : State, exec .discard64 s = .next { s with
      g64 := G64.step^[s.arg.toNat] s.g64
      phase := .responding ⟨.ok, 0, 0, 0⟩ } ∧
    (G64.step^[s.arg.toNat] s.g64).p.toNat = (s.g64.p.toNat + s.arg.toNat) % 16

/-- 40_bit_generators.md R100 and R101: `GETMIN` and `GETMAX` return the constants and touch no
state. -/
def Obligations.QueriesReturnConstants : Prop :=
  decode 0x00000006 = .ok (.getmin .g32) ∧ decode 0x00000106 = .ok (.getmin .g64) ∧
  decode 0x00000007 = .ok (.getmax .g32) ∧ decode 0x00000107 = .ok (.getmax .g64) ∧
  ∀ s : State,
    (∀ g, exec (.getmin g) s = .next { s with phase := .responding ⟨.ok, 0, 0, 0⟩ }) ∧
    exec (.getmax .g32) s =
      .next { s with phase := .responding ⟨.ok, 0x00000000FFFFFFFF, 0, 0⟩ } ∧
    exec (.getmax .g64) s =
      .next { s with phase := .responding ⟨.ok, 0xFFFFFFFFFFFFFFFF, 0, 0⟩ }

/-- What the spec infers in 40_bit_generators.md R87 (a) to (c) from R81: the step of `G32` is a
bijection, the all-zero state is the only one it maps to the all-zero state, and a `G32` that is
constructed and stepped is never all zero. -/
def Obligations.G32StepBijectiveNeverZero : Prop :=
  Function.Bijective G32.step ∧
  (∀ g : G32, g.step = ⟨0, 0, 0, 0⟩ ↔ g = ⟨0, 0, 0, 0⟩) ∧
  (∀ (seed : Word32) (n : Nat), G32.step^[n] (G32.init seed) ≠ ⟨0, 0, 0, 0⟩)

/-- What the spec infers in 40_bit_generators.md R97 from R91 and R92: the step of `G64` is a
bijection, and from the all-zero array every output is 0 and only the index moves; `INIT.64` gives
that array for the seed 0 alone. -/
def Obligations.G64StepBijectiveZeroFixed : Prop :=
  Function.Bijective G64.step ∧
  (∀ g : G64, (∀ i, g.word i = 0) → g.out = 0 ∧ ∀ i, g.step.word i = 0) ∧
  (∀ seed : Word64, (∀ i, (G64.init seed).word i = 0) ↔ seed = 0)

/-- What the spec infers in 40_bit_generators.md R96 from R91: from stored word to output the map
is a bijection on 64-bit words, and the output is 0 exactly when the stored word is. -/
def Obligations.G64OutputBijectiveInStoredWord : Prop :=
  Function.Bijective (fun v : Word64 => v * mult64) ∧
  ∀ g : G64, g.out = 0 ↔ g.step.word g.step.p = 0

/-- What the spec infers in 40_bit_generators.md R94 from R91: after a re-seed at index `p`, not
0, the outputs before output number `16 - p` are those of the generator without it. -/
def Obligations.ReseedTakesEffectLate : Prop :=
  ∀ (g : G64) (v : Word64) (n : Nat), g.p ≠ 0 → n + 1 < 16 - g.p.toNat →
    (G64.step^[n] (g.reseed v)).out = (G64.step^[n] g).out

/-- What the spec infers in 40_bit_generators.md R98 from R92 and R94: where both seeds have a
zero low byte, re-seeding a generator that has just been constructed gives exactly the state of a
construction. -/
def Obligations.ReseedEqualsConstructionSometimes : Prop :=
  ∀ S V : Word64, S &&& 255 = 0 → V &&& 255 = 0 → (G64.init S).reseed V = G64.init V

/-- What the spec infers in 40_bit_generators.md R103 from R85, R86, R95 and R96: for either
generator, `DISCARD k` and then `NEXT` gives the same state and response as `k + 1` commands
`NEXT`. -/
def Obligations.DiscardAgreesWithConsumption : Prop :=
  ∀ s : State,
    (∃ t u, exec .discard32 s = .next t ∧ exec .next32 t = .next u ∧
      repeatExec .next32 (s.arg.toNat + 1) s = .next u) ∧
    (∃ t u, exec .discard64 s = .next t ∧ exec .next64 t = .next u ∧
      repeatExec .next64 (s.arg.toNat + 1) s = .next u)

/-! ### Bounded integers -/

/-- 41_uniform_int_sampler.md R112: `UINT` returns the output, and 0 where the output is the
maximum; one step. -/
def Obligations.UintReducesByMaximum : Prop :=
  decode 0x00000010 = .ok (.uint .g32) ∧ decode 0x00000110 = .ok (.uint .g64) ∧
  ∀ (g : Gen) (s : State), exec (.uint g) s = .next { s.advance g with
    phase := .responding
      ⟨.ok, if s.stepOut g = genMax g then 0 else s.stepOut g, 0, 0⟩ }

/-- 41_uniform_int_sampler.md R113 and 60_exceptions.md R192: `UINTN` with a modulus that is not
zero returns the unsigned remainder after one step; with a zero modulus it makes no step and is
answered with status 2 and zeros. -/
def Obligations.UintnReducesByModulus : Prop :=
  decode 0x00000011 = .ok (.uintn .g32) ∧ decode 0x00000111 = .ok (.uintn .g64) ∧
  Status.divideByZero.code = 2 ∧
  ∀ (g : Gen) (s : State),
    let n := match g with
      | .g32 => s.arg.toNat % 2 ^ 32
      | .g64 => s.arg.toNat
    (n ≠ 0 → exec (.uintn g) s = .next { s.advance g with
      phase := .responding ⟨.ok, BitVec.ofNat 64 ((s.stepOut g).toNat % n), 0, 0⟩ }) ∧
    (n = 0 → exec (.uintn g) s = .next { s with
      phase := .responding ⟨.divideByZero, 0, 0, 0⟩ })

/-! ### Floating point -/

/-- 42_fp_conversion_and_reals.md R127 and R130: a conversion of an integer is correctly rounded,
and 0 becomes `+0`. -/
def Obligations.ConversionCorrectlyRounded : Prop :=
  ∀ F : Fmt, Fp.cvt F 0 = .fin false 0 F.minQuantum ∧
    ∀ i : Int, i ≠ 0 → RoundsTo F (i : ℝ) (.cvt F i)

/-- 42_fp_conversion_and_reals.md R132, R133, R134 and R139: quotient, product and sum of finite
values are correctly rounded where the exact result is not zero, and otherwise are the zero with
the sign R139 gives; a value that is not zero over zero is an infinity; `cvt_F(0) = +0`. The results
for infinite operands, with their signs, stand in `NanExactlyWhereListed`. -/
def Obligations.ArithmeticCorrectlyRounded : Prop :=
  ∀ (F : Fmt) (na nb : Bool) (ma mb : Nat) (ea eb : Int) (x y : ℝ),
    let a := Fp.fin na ma ea
    let b := Fp.fin nb mb eb
    a.isReal x → b.isReal y →
    (x / y ≠ 0 → RoundsTo F (x / y) (.div F a b)) ∧
    (x = 0 → y ≠ 0 → Fp.div F a b = .fin (na ^^ nb) 0 F.minQuantum) ∧
    (x ≠ 0 → y = 0 → ∃ n, Fp.div F a b = .inf n) ∧
    (x * y ≠ 0 → RoundsTo F (x * y) (.mul F a b)) ∧
    (x * y = 0 → Fp.mul F a b = .fin (na ^^ nb) 0 F.minQuantum) ∧
    (x + y ≠ 0 → RoundsTo F (x + y) (.add F a b)) ∧
    (x + y = 0 → Fp.add F a b = .fin (if na = nb then na else false) 0 F.minQuantum) ∧
    Fp.cvt F 0 = .fin false 0 F.minQuantum

/-- 42_fp_conversion_and_reals.md R135: the square root is correctly rounded, and its special
cases. -/
def Obligations.SquareRootCorrectlyRounded : Prop :=
  ∀ F : Fmt,
    (∀ (a : Fp) (x : ℝ), a.isReal x → 0 < x → RoundsTo F (Real.sqrt x) (.sqrt F a)) ∧
    (∀ (a : Fp) (x : ℝ), a.isReal x → x < 0 → Fp.sqrt F a = .nan) ∧
    Fp.sqrt F (.inf true) = .nan ∧
    (∀ neg, Fp.sqrt F (.fin neg 0 F.minQuantum) = .fin neg 0 F.minQuantum) ∧
    Fp.sqrt F (.inf false) = .inf false

/-- Exactly where the primitives return a NaN (42_fp_conversion_and_reals.md R129), and what they
return otherwise for an infinite operand or a zero divisor: an infinity with the exclusive-or of the
signs, or a zero with it for a finite value over an infinity (R128, R132, R133;
43_disk_gaussian_sampler.md R171, R173 for products). The results the rules never need are the
model's reading of IEEE 754, log 17. -/
def Obligations.NanExactlyWhereListed : Prop :=
  ∀ (F : Fmt) (a b : Fp),
    (Fp.mul F a b = .nan ↔ a = .nan ∨ b = .nan ∨
      (a.eq0 = true ∧ ∃ n, b = .inf n) ∨ (b.eq0 = true ∧ ∃ n, a = .inf n)) ∧
    (Fp.add F a b = .nan ↔ a = .nan ∨ b = .nan ∨ ∃ n, a = .inf n ∧ b = .inf (!n)) ∧
    (Fp.div F a b = .nan ↔ a = .nan ∨ b = .nan ∨ (a.eq0 = true ∧ b.eq0 = true) ∨
      ((∃ n, a = .inf n) ∧ ∃ n, b = .inf n)) ∧
    (Fp.sqrt F a = .nan ↔ a = .nan ∨ a = .inf true ∨ ∃ m e, a = .fin true m e ∧ m ≠ 0) ∧
    ∀ (na nb : Bool) (m : Nat) (e d : Int),
      Fp.mul F (.inf na) (.inf nb) = .inf (na ^^ nb) ∧
      (m ≠ 0 → Fp.mul F (.inf na) (.fin nb m e) = .inf (na ^^ nb)) ∧
      (m ≠ 0 → Fp.mul F (.fin na m e) (.inf nb) = .inf (na ^^ nb)) ∧
      Fp.div F (.inf na) (.fin nb m e) = .inf (na ^^ nb) ∧
      Fp.div F (.fin na m e) (.inf nb) = .fin (na ^^ nb) 0 F.minQuantum ∧
      (m ≠ 0 → Fp.div F (.fin na m e) (.fin nb 0 d) = .inf (na ^^ nb)) ∧
      Fp.add F (.inf na) (.inf na) = .inf na ∧
      Fp.add F (.inf na) (.fin nb m e) = .inf na ∧
      Fp.add F (.fin na m e) (.inf nb) = .inf nb

/-- 42_fp_conversion_and_reals.md R126: what each encoding stands for, and the encodings of the
three constants. Encodings and values correspond: every encoding that is no NaN's is that of its
value, every canonical value has an encoding, and the encodings of NaN are exactly those a draw
can give (R129; the draw is the model's, log 4). -/
def Obligations.EncodingsCorrespondToValues : Prop :=
  ∀ F : Fmt,
    (∀ w : Word64,
      let S := w.getLsbD (match F with | .b32 => 31 | .b64 => 63)
      let E := match F with
        | .b32 => (w.extractLsb' 23 8).toNat
        | .b64 => (w.extractLsb' 52 11).toNat
      let T := match F with
        | .b32 => (w.extractLsb' 0 23).toNat
        | .b64 => (w.extractLsb' 0 52).toNat
      let k : Nat := match F with | .b32 => 8 | .b64 => 11
      let m : Nat := match F with | .b32 => 23 | .b64 => 52
      let emin : Int := match F with | .b32 => -126 | .b64 => -1022
      let bias : Int := match F with | .b32 => 127 | .b64 => 1023
      (E = 0 → Fp.unpack F w = .fin S T (emin - m)) ∧
      (0 < E → E < 2 ^ k - 1 → Fp.unpack F w = .fin S (2 ^ m + T) (E - bias - m)) ∧
      (E = 2 ^ k - 1 → T = 0 → Fp.unpack F w = .inf S) ∧
      (E = 2 ^ k - 1 → T ≠ 0 → Fp.unpack F w = .nan)) ∧
    Fp.unpack F (match F with | .b32 => 0x3F800000 | .b64 => 0x3FF0000000000000) = .cvt F 1 ∧
    Fp.unpack F (match F with | .b32 => 0x40000000 | .b64 => 0x4000000000000000) = .cvt F 2 ∧
    Fp.unpack F (match F with | .b32 => 0xC0000000 | .b64 => 0xC000000000000000) = .cvt F (-2) ∧
    (∀ w : Word64, w.toNat < 2 ^ F.width → (Fp.unpack F w).canonical F ∧
      (Fp.unpack F w ≠ .nan → ∀ d, (Fp.unpack F w).pack F d = w) ∧
      (Fp.unpack F w = .nan ↔ ∃ d, nanEncoding F d = w)) ∧
    (∀ (v : Fp) (d : Word64), v.canonical F → (v.pack F d).toNat < 2 ^ F.width ∧
      Fp.unpack F (v.pack F d) = v)

/-- The logarithm on canonical finite values above zero (42_fp_conversion_and_reals.md R138):
LN-1, LN-2, LN-3, and LN-4 up to the model's bound of `2^(-230)` (the model's choice, log 5): the
result is one of two adjacent values of the format, of which the lower one is at most the real
logarithm and the upper one at least it but for that bound. -/
def Obligations.LogarithmProperties : Prop :=
  ∀ F : Fmt, Fp.ln F (.one F) = .fin false 0 F.minQuantum ∧
    (∀ (a : Fp) (x : ℝ), a.canonical F → a.isReal x → 0 < x → x < 1 →
      ∃ m e, Fp.ln F a = .fin true m e ∧ m ≠ 0) ∧
    (∀ (a b : Fp) (x y : ℝ), a.canonical F → b.canonical F → a.isReal x → b.isReal y → 0 < x →
      x ≤ y → ∃ l h : ℝ, (Fp.ln F a).isReal l ∧ (Fp.ln F b).isReal h ∧ l ≤ h) ∧
    (∀ (a : Fp) (x : ℝ), a.canonical F → a.isReal x → 0 < x → a ≠ .one F →
      ∃ (lo hi : Fp) (l h : ℝ), lo.canonical F ∧ hi.canonical F ∧ lo.isReal l ∧ hi.isReal h ∧
        l ≤ Real.log x ∧ Real.log x ≤ h + (2 : ℝ) ^ (-230 : Int) ∧
        (∀ (v : Fp) (r : ℝ), v.canonical F → v.isReal r → ¬ (l < r ∧ r < h)) ∧
        (Fp.ln F a = lo ∨ Fp.ln F a = hi))

/-! ### The uniform reals -/

/-- 42_fp_conversion_and_reals.md R141: `REAL`: one step, and `unorm` of its output, never a NaN. -/
def Obligations.RealReturnsUnorm : Prop :=
  ∀ (g : Gen) (F : Fmt), decode (0x00000020 + selectorBits g F) = .ok (.real g F) ∧
    ∀ (s : State) (d : Word64), exec (.real g F) s = .next { s.advance g with
      phase := .responding ⟨.ok, (Fp.div F (.cvt F (s.stepOut g).toNat)
        (.cvt F (genMax g).toNat)).pack F d, 0, 0⟩ }

/-- 42_fp_conversion_and_reals.md R142: `REALN`: one step, and `snorm` of its output, never a NaN.
-/
def Obligations.RealnReturnsSnorm : Prop :=
  ∀ (g : Gen) (F : Fmt), decode (0x00000021 + selectorBits g F) = .ok (.realn g F) ∧
    ∀ (s : State) (d : Word64), exec (.realn g F) s = .next { s.advance g with
      phase := .responding ⟨.ok, (Fp.div F (.cvt F (2 * (match g with
          | .g32 => s.g32.out.toInt
          | .g64 => s.g64.out.toInt)))
        (.cvt F (genMax g).toNat)).pack F d, 0, 0⟩ }

/-- 42_fp_conversion_and_reals.md R143: `REAL2` makes one step and returns exactly twice what
`REAL` would have returned. -/
def Obligations.Real2ReturnsTwice : Prop :=
  ∀ (g : Gen) (F : Fmt), decode (0x00000022 + selectorBits g F) = .ok (.real2 g F) ∧
    ∀ s : State,
      let v := Fp.mul F (unorm g F (s.stepOut g)) (.cvt F 2)
      (∀ d, exec (.real2 g F) s = .next { s.advance g with
        phase := .responding ⟨.ok, v.pack F d, 0, 0⟩ }) ∧
      ∃ x : ℝ, (unorm g F (s.stepOut g)).isReal x ∧ v.isReal (2 * x)

/-- 42_fp_conversion_and_reals.md R144: `REALN2` makes one step and returns exactly twice what
`REALN` would have returned. -/
def Obligations.Realn2ReturnsTwice : Prop :=
  ∀ (g : Gen) (F : Fmt), decode (0x00000023 + selectorBits g F) = .ok (.realn2 g F) ∧
    ∀ s : State,
      let v := Fp.mul F (snorm g F (s.stepOut g)) (.cvt F 2)
      (∀ d, exec (.realn2 g F) s = .next { s.advance g with
        phase := .responding ⟨.ok, v.pack F d, 0, 0⟩ }) ∧
      ∃ x : ℝ, (snorm g F (s.stepOut g)).isReal x ∧ v.isReal (2 * x)

/-- What the spec infers in 42_fp_conversion_and_reals.md R145 from R127, R130 and R140: `unorm`
lies in `[0, 1]` with sign plus, is monotone, and is exactly `1.0` from the threshold of the table
on. -/
def Obligations.UnormBoundsAndThresholds : Prop :=
  ∀ (g : Gen) (F : Fmt) (v w : Word64), v.toNat ≤ w.toNat → w.toNat ≤ (genMax g).toNat →
    ∃ x y : ℝ, (unorm g F v).isReal x ∧ (unorm g F w).isReal y ∧ 0 ≤ x ∧ x ≤ y ∧ y ≤ 1 ∧
      (∃ m e, unorm g F w = .fin false m e) ∧
      (unorm g F w = .one F ↔ (match g, F with
        | .g32, .b32 => 0xFFFFFF80
        | .g32, .b64 => 0xFFFFFFFF
        | .g64, .b32 => 0xFFFFFF8000000000
        | .g64, .b64 => 0xFFFFFFFFFFFFFC00) ≤ w.toNat)

/-- What the spec infers in 42_fp_conversion_and_reals.md R146 from R127, R130, R131 and R140:
where `snorm` is exactly `1.0`, exactly `-1.0`, and below `-1.0`; and `snorm` of 0. -/
def Obligations.SnormEndPoints : Prop :=
  ∀ (g : Gen) (F : Fmt) (v : Word64), v.toNat ≤ (genMax g).toNat →
    (snorm g F v = .one F ↔ match g, F with
      | .g32, .b32 => 0x7FFFFFC0 ≤ v.toNat ∧ v.toNat ≤ 0x7FFFFFFF
      | .g32, .b64 => False
      | .g64, .b32 => 0x7FFFFFC000000000 ≤ v.toNat ∧ v.toNat ≤ 0x7FFFFFFFFFFFFFFF
      | .g64, .b64 => 0x7FFFFFFFFFFFFE00 ≤ v.toNat ∧ v.toNat ≤ 0x7FFFFFFFFFFFFFFF) ∧
    (snorm g F v = (Fp.one F).neg ↔ match g, F with
      | .g32, .b32 => 0x80000000 ≤ v.toNat ∧ v.toNat ≤ 0x80000040
      | .g32, .b64 => False
      | .g64, .b32 => 0x8000000000000000 ≤ v.toNat ∧ v.toNat ≤ 0x8000004000000000
      | .g64, .b64 => 0x8000000000000000 ≤ v.toNat ∧ v.toNat ≤ 0x8000000000000200) ∧
    ((∃ x : ℝ, (snorm g F v).isReal x ∧ x < -1) ↔ g = .g32 ∧ F = .b64 ∧ v.toNat = 0x80000000) ∧
    (snorm g F 0 = .fin false 0 F.minQuantum)

/-! ### The two-dimensional sampler -/

/-- 43_disk_gaussian_sampler.md R161: an iteration accepts exactly where the squared radius of the
point drawn is at most 1 (R164: and on no other ground); where iteration `k + 1` is the first to
accept, `DISK` has made `2 (k + 1)` steps and returns the accepted point and its squared radius, no
NaN among them. It does so in one transition where `k` is within the burst of a transition, and in
`k / diskBurst + 1` transitions for every `k` (the cutting into transitions is the model's choice,
log 3). -/
def Obligations.DiskReturnsAcceptedPoint : Prop :=
  ∀ (g : Gen) (F : Fmt), decode (0x00000030 + selectorBits g F) = .ok (.disk g F) ∧
    (∀ s : State,
      let x := snorm g F (s.stepOut g)
      let y := snorm g F ((s.advance g).stepOut g)
      (s.candidate g F).accepted F = true ↔
        ∃ r : ℝ, (Fp.add F (.mul F x x) (.mul F y y)).isReal r ∧ r ≤ 1) ∧
    ∀ (s : State) (k : Nat) (d : Word64), s.acceptsAfter g F k →
      let u := s.afterIterations g k
      let x := snorm g F (u.stepOut g)
      let y := snorm g F ((u.advance g).stepOut g)
      let t : State := { s.afterIterations g (k + 1) with
        phase := .responding ⟨.ok, x.pack F d, y.pack F d,
          (Fp.add F (.mul F x x) (.mul F y y)).pack F d⟩ }
      (k < Config.diskBurst → exec (.disk g F) s = .next t) ∧
      repeatExec (.disk g F) (k / Config.diskBurst + 1) s = .next t

/-- 43_disk_gaussian_sampler.md R165: `GAUSS` where the loop accepts a point whose `s` is not
zero. Which encoding a NaN among the results has is free, log 4. Transitions as in
`DiskReturnsAcceptedPoint` (log 3). -/
def Obligations.GaussReturnsTransform : Prop :=
  ∀ (g : Gen) (F : Fmt), decode (0x00000031 + selectorBits g F) = .ok (.gauss g F) ∧
    ∀ (s : State) (k : Nat), s.acceptsAfter g F k →
      let c := (s.afterIterations g k).candidate g F
      c.s.eq0 = false →
      let fac := Fp.sqrt F (.div F (.mul F (.cvt F (-2)) (.ln F c.s)) c.s)
      let v0 : Fp := .mul F c.x fac
      let v1 : Fp := .mul F c.y fac
      let n1 := if v0 = .nan then s.draws + 1 else s.draws
      let t : State := { s.afterIterations g (k + 1) with
        phase := .responding
          ⟨.ok, v0.pack F (Config.nanDraw s.draws), v1.pack F (Config.nanDraw n1), 0⟩
        draws := if v1 = .nan then n1 + 1 else n1 }
      (k < Config.diskBurst → exec (.gauss g F) s = .next t) ∧
      repeatExec (.gauss g F) (k / Config.diskBurst + 1) s = .next t

/-- 43_disk_gaussian_sampler.md R166: `GAUSSR` where the loop accepts a point whose `s` is not
zero: each finished output is multiplied by the radius. Which encoding a NaN among the results has
is free, log 4. Transitions as in `DiskReturnsAcceptedPoint` (log 3). -/
def Obligations.GaussrReturnsScaledTransform : Prop :=
  ∀ (g : Gen) (F : Fmt), decode (0x00000032 + selectorBits g F) = .ok (.gaussr g F) ∧
    ∀ (s : State) (k : Nat), s.acceptsAfter g F k →
      let c := (s.afterIterations g k).candidate g F
      c.s.eq0 = false →
      let fac := Fp.sqrt F (.div F (.mul F (.cvt F (-2)) (.ln F c.s)) c.s)
      let r := Fp.unpack F s.arg
      let v0 : Fp := .mul F (.mul F c.x fac) r
      let v1 : Fp := .mul F (.mul F c.y fac) r
      let n1 := if v0 = .nan then s.draws + 1 else s.draws
      let t : State := { s.afterIterations g (k + 1) with
        phase := .responding
          ⟨.ok, v0.pack F (Config.nanDraw s.draws), v1.pack F (Config.nanDraw n1), 0⟩
        draws := if v1 = .nan then n1 + 1 else n1 }
      (k < Config.diskBurst → exec (.gaussr g F) s = .next t) ∧
      repeatExec (.gaussr g F) (k / Config.diskBurst + 1) s = .next t

/-- 43_disk_gaussian_sampler.md R168: `EXPO` where the loop accepts a point whose `s` is not zero.
Which encoding a NaN among the results has is free, log 4. Transitions as in
`DiskReturnsAcceptedPoint` (log 3). -/
def Obligations.ExpoReturnsTransform : Prop :=
  ∀ (g : Gen) (F : Fmt), decode (0x00000033 + selectorBits g F) = .ok (.expo g F) ∧
    ∀ (s : State) (k : Nat), s.acceptsAfter g F k →
      let c := (s.afterIterations g k).candidate g F
      c.s.eq0 = false →
      let fac := Fp.div F (Fp.ln F c.s).neg c.s
      let v0 : Fp := .mul F c.x fac
      let v1 : Fp := .mul F c.y fac
      let n1 := if v0 = .nan then s.draws + 1 else s.draws
      let t : State := { s.afterIterations g (k + 1) with
        phase := .responding
          ⟨.ok, v0.pack F (Config.nanDraw s.draws), v1.pack F (Config.nanDraw n1), 0⟩
        draws := if v1 = .nan then n1 + 1 else n1 }
      (k < Config.diskBurst → exec (.expo g F) s = .next t) ∧
      repeatExec (.expo g F) (k / Config.diskBurst + 1) s = .next t

/-- 43_disk_gaussian_sampler.md R169: `EXPOR` where the loop accepts a point whose `s` is not
zero: each finished output is multiplied by the radius. Which encoding a NaN among the results has
is free, log 4. Transitions as in `DiskReturnsAcceptedPoint` (log 3). -/
def Obligations.ExporReturnsScaledTransform : Prop :=
  ∀ (g : Gen) (F : Fmt), decode (0x00000034 + selectorBits g F) = .ok (.expor g F) ∧
    ∀ (s : State) (k : Nat), s.acceptsAfter g F k →
      let c := (s.afterIterations g k).candidate g F
      c.s.eq0 = false →
      let fac := Fp.div F (Fp.ln F c.s).neg c.s
      let r := Fp.unpack F s.arg
      let v0 : Fp := .mul F (.mul F c.x fac) r
      let v1 : Fp := .mul F (.mul F c.y fac) r
      let n1 := if v0 = .nan then s.draws + 1 else s.draws
      let t : State := { s.afterIterations g (k + 1) with
        phase := .responding
          ⟨.ok, v0.pack F (Config.nanDraw s.draws), v1.pack F (Config.nanDraw n1), 0⟩
        draws := if v1 = .nan then n1 + 1 else n1 }
      (k < Config.diskBurst → exec (.expor g F) s = .next t) ∧
      repeatExec (.expor g F) (k / Config.diskBurst + 1) s = .next t

/-- Where the accepted `s` is zero, the four transforms are answered with status 3 and zeros, the
steps made staying made (60_exceptions.md R194), and `DISK` with status `OK`
(43_disk_gaussian_sampler.md R164). Transitions as in `DiskReturnsAcceptedPoint` (log 3). -/
def Obligations.DomainErrorKeepsDraws : Prop :=
  Status.domainError.code = 3 ∧
  ∀ (g : Gen) (F : Fmt) (s : State) (k : Nat), s.acceptsAfter g F k →
    ((s.afterIterations g k).candidate g F).s.eq0 = true →
    (∀ i ∈ [Instr.gauss g F, .gaussr g F, .expo g F, .expor g F],
      let t : State := { s.afterIterations g (k + 1) with
        phase := .responding ⟨.domainError, 0, 0, 0⟩ }
      (k < Config.diskBurst → exec i s = .next t) ∧
      repeatExec i (k / Config.diskBurst + 1) s = .next t) ∧
    repeatExec (.disk g F) (k / Config.diskBurst + 1) s =
      .next { s.afterIterations g (k + 1) with phase := .responding ⟨.ok, 0, 0, 0⟩ }

/-- The acceptance test and what it lets through. `le_F` compares as real numbers and is false on
a NaN, `eq0_F` tests for a zero (42_fp_conversion_and_reals.md R137); an iteration accepts exactly
where `s` is a real number at most 1, zero included (43_disk_gaussian_sampler.md R161, R164). And
what the spec infers in R162 from R161 and from the shape of `snorm`: coordinates of magnitude at
most 1, a squared radius in `[0, 1]`, never `-0`, never subnormal, zero exactly when both outputs
were 0. -/
def Obligations.AcceptedPointInDisk : Prop :=
  (∀ (a b : Fp) (x y : ℝ), a.isReal x → b.isReal y → (Fp.le a b = true ↔ x ≤ y)) ∧
  (∀ a : Fp, Fp.le .nan a = false ∧ Fp.le a .nan = false ∧ (a.eq0 = true ↔ a.isReal 0)) ∧
  (∀ (F : Fmt) (c : Candidate), c.s ≠ .inf true →
    (c.accepted F = true ↔ ∃ r : ℝ, c.s.isReal r ∧ r ≤ 1)) ∧
  ∀ (g : Gen) (F : Fmt) (s : State),
    (s.candidate g F).s ≠ .inf true ∧
    ((s.candidate g F).accepted F = true →
      ∃ x y r : ℝ, (s.candidate g F).x.isReal x ∧ (s.candidate g F).y.isReal y ∧
        (s.candidate g F).s.isReal r ∧ abs x ≤ 1 ∧ abs y ≤ 1 ∧ 0 ≤ r ∧ r ≤ 1 ∧
        (∃ m e, (s.candidate g F).s = .fin false m e) ∧
        (r ≠ 0 → (2 : ℝ) ^ F.emin ≤ r) ∧
        (r = 0 ↔ x = 0 ∧ y = 0) ∧
        (r = 0 ↔ s.stepOut g = 0 ∧ (s.advance g).stepOut g = 0))

/-- 43_disk_gaussian_sampler.md R172: where the accepted `s` is `1.0`, the outputs are zeros whose
signs are the opposite of the signs of the coordinates, with a finite radius combined with its
sign, and the status is `OK`. Transitions as in `DiskReturnsAcceptedPoint` (log 3). -/
def Obligations.BoundaryPointGivesSignedZeros : Prop :=
  ∀ (g : Gen) (F : Fmt) (s : State) (k : Nat), s.acceptsAfter g F k →
    let c := (s.afterIterations g k).candidate g F
    c.s = .one F →
    ∃ (nx ny : Bool) (mx my : Nat) (ex ey : Int), c.x = .fin nx mx ex ∧ c.y = .fin ny my ey ∧
      (∀ i ∈ [Instr.gauss g F, .expo g F],
        let t : State := { s.afterIterations g (k + 1) with
          phase := .responding ⟨.ok, signedZero F (!nx), signedZero F (!ny), 0⟩ }
        (k < Config.diskBurst → exec i s = .next t) ∧
        repeatExec i (k / Config.diskBurst + 1) s = .next t) ∧
      (∀ i ∈ [Instr.gaussr g F, .expor g F], ∀ nr mr er, Fp.unpack F s.arg = .fin nr mr er →
        let t : State := { s.afterIterations g (k + 1) with
          phase := .responding ⟨.ok, signedZero F (!nx ^^ nr), signedZero F (!ny ^^ nr), 0⟩ }
        (k < Config.diskBurst → exec i s = .next t) ∧
        repeatExec i (k / Config.diskBurst + 1) s = .next t)

/-- 43_disk_gaussian_sampler.md R166 and R169: with the radius `1.0` the scaled transforms give
exactly the result of the plain ones. -/
def Obligations.UnitRadiusIsIdentity : Prop :=
  ∀ (g : Gen) (F : Fmt) (s : State), Fp.unpack F s.arg = .one F →
    exec (.gaussr g F) s = exec (.gauss g F) s ∧ exec (.expor g F) s = exec (.expo g F) s

/-- 43_disk_gaussian_sampler.md R173: a NaN radius is no fault: the command is answered `OK` and
both results are NaN encodings of the format, each a free draw of its own (log 4). Transitions as in
`DiskReturnsAcceptedPoint` (log 3). -/
def Obligations.NanRadiusGivesNans : Prop :=
  ∀ (g : Gen) (F : Fmt) (s : State) (k : Nat) (i : Instr), s.acceptsAfter g F k →
    ((s.afterIterations g k).candidate g F).s.eq0 = false →
    Fp.unpack F s.arg = .nan →
    i ∈ [Instr.gaussr g F, .expor g F] →
    ∃ r0 r1 : Word64,
      let t : State := { s.afterIterations g (k + 1) with
        phase := .responding ⟨.ok, r0, r1, 0⟩
        draws := s.draws + 2 }
      (k < Config.diskBurst → exec i s = .next t) ∧
      repeatExec i (k / Config.diskBurst + 1) s = .next t ∧
      r0 = nanEncoding F (Config.nanDraw s.draws) ∧
      r1 = nanEncoding F (Config.nanDraw (s.draws + 1)) ∧
      Fp.unpack F r0 = .nan ∧ Fp.unpack F r1 = .nan

/-- 43_disk_gaussian_sampler.md R163: a loop that accepts in iteration `k + 1`, however large `k`,
ends in a response, after exactly `2 (k + 1)` steps of the selected generator and none of the
other; no response comes before it. -/
def Obligations.AcceptingLoopResponds : Prop :=
  ∀ (i : Instr) (F : Fmt) (s : State) (k : Nat), s.live → s.phase = .executing →
    decode s.cmd = .ok i → i.samplesDisk = true → i.fmt = some F → s.acceptsAfter i.gen F k →
    (∀ n ≤ k / Config.diskBurst, ∃ u, run n s = .next u ∧ u.phase = .executing) ∧
    ∃ t r, run (k / Config.diskBurst + 1) s = .next t ∧
      repeatExec i (k / Config.diskBurst + 1) s = .next t ∧ t.phase = .responding r ∧
      t.g32 = (s.afterIterations i.gen (k + 1)).g32 ∧
      t.g64 = (s.afterIterations i.gen (k + 1)).g64

/-- 43_disk_gaussian_sampler.md R163: as long as the loop has not accepted, the block stays busy,
with no cap on the number of iterations: no response and no further command accepted. A loop that
never accepts meets the premise for every `n`. -/
def Obligations.RejectingLoopStaysBusy : Prop :=
  ∀ (i : Instr) (F : Fmt) (s : State) (n : Nat), s.live → s.phase = .executing →
    decode s.cmd = .ok i → i.samplesDisk = true → i.fmt = some F →
    s.rejectsFor i.gen F (n * Config.diskBurst) →
    let t := s.afterIterations i.gen (n * Config.diskBurst)
    run n s = .next t ∧ t.phase = .executing ∧ t.rspValid = false ∧ t.cmdReady = false ∧
      t.commands = s.commands ∧ t.received = s.received
end

