-- ==== Sys2Proof/Laws/Decode.lean ====
section
/-! SUPPORT. The opcode table and the decoder. -/

namespace Sys2Proof

/-- The table has the 23 rows of spec/opcode_table.json. -/
theorem encodingRows_length : encodingRows.length = 23 := rfl

/-- No word matches two rows: the values of two rows differ in a bit that both compare
(30_encoding.md R61). -/
theorem encodingRows_disjoint :
    encodingRows.Pairwise
      (fun r q => r.value &&& (r.mask &&& q.mask) ≠ q.value &&& (r.mask &&& q.mask)) := by
  decide +kernel

/-- A word decodes only through a row it matches (30_encoding.md R61). -/
theorem decode_ok {c : Word32} {i : Instr} (h : decode c = .ok i) :
    ∃ r ∈ encodingRows, r.matches c = true ∧ i = r.build (gselOf c) (fselOf c) := by
  unfold decode at h
  split at h
  · next r hf =>
    simp only [Except.ok.injEq] at h
    exact ⟨r, List.mem_of_find?_eq_some hf, by simpa using List.find?_some hf, h.symm⟩
  · simp at h

/-- An illegal word matches no row (30_encoding.md R61, R66). -/
theorem decode_error {c : Word32} {e : DecodeError} (h : decode c = .error e) :
    ∀ r ∈ encodingRows, r.matches c = false := by
  unfold decode at h
  split at h
  · simp at h
  · next hf => simpa using List.find?_eq_none.1 hf

end Sys2Proof
end

