-- ==== Sys2Proof/Laws/Float.lean ====
section
/-! SUPPORT. Rounding: the fraction `roundFrac` rounds, measured in quanta, and that its result is
the correctly rounded one of 42_fp_conversion_and_reals.md R127. -/

namespace Sys2Proof

/-! ### The formats -/

theorem Fmt.fracBits_succ (F : Fmt) : F.fracBits + 1 = F.precision := by cases F <;> rfl

theorem Fmt.emin_lt_emax (F : Fmt) : F.emin < F.emax := by cases F <;> decide

theorem Fmt.minQuantum_eq (F : Fmt) : F.minQuantum = F.emin - (F.fracBits : Int) := rfl

namespace Machine

/-! ### Binary exponents and quanta -/

/-- A power of two split into the factors the definitions multiply numerator and denominator by. -/
theorem two_pow_toNat (k : Int) :
    (2 : ℝ) ^ k = (2 : ℝ) ^ k.toNat / (2 : ℝ) ^ (-k).toNat := by
  rcases le_total 0 k with h | h
  · obtain ⟨n, rfl⟩ := Int.eq_ofNat_of_zero_le h
    simp
  · obtain ⟨n, hn⟩ := Int.eq_ofNat_of_zero_le (neg_nonneg.2 h)
    obtain rfl : k = -(n : Int) := by omega
    simp

/-- `floorLog2` is the binary exponent of a fraction. -/
theorem floorLog2_spec {n d : Nat} (hn : n ≠ 0) (hd : d ≠ 0) :
    (2 : ℝ) ^ floorLog2 n d ≤ (n : ℝ) / d ∧ (n : ℝ) / d < (2 : ℝ) ^ (floorLog2 n d + 1) := by
  have hn1 : (2 : ℝ) ^ (Nat.log2 n : Int) ≤ n := by
    rw [zpow_natCast]; exact_mod_cast Nat.log2_self_le hn
  have hn2 : (n : ℝ) < (2 : ℝ) ^ ((Nat.log2 n : Int) + 1) := by
    rw [← Nat.cast_succ, zpow_natCast]; exact_mod_cast Nat.lt_log2_self
  have hd1 : (2 : ℝ) ^ (Nat.log2 d : Int) ≤ d := by
    rw [zpow_natCast]; exact_mod_cast Nat.log2_self_le hd
  have hd2 : (d : ℝ) < (2 : ℝ) ^ ((Nat.log2 d : Int) + 1) := by
    rw [← Nat.cast_succ, zpow_natCast]; exact_mod_cast Nat.lt_log2_self
  have hdpos : (0 : ℝ) < d := by positivity
  set l : Int := (Nat.log2 n : Int) - (Nat.log2 d : Int) with hl
  have key : d * 2 ^ l.toNat ≤ n * 2 ^ (-l).toNat ↔ (2 : ℝ) ^ l ≤ (n : ℝ) / d := by
    rw [two_pow_toNat l, div_le_div_iff₀ (by positivity) hdpos]
    rw [mul_comm d]
    exact_mod_cast Iff.rfl
  unfold floorLog2
  simp only [← hl, key]
  split
  · next h =>
    refine ⟨h, ?_⟩
    rw [div_lt_iff₀ hdpos]
    refine hn2.trans_le ?_
    calc (2 : ℝ) ^ ((Nat.log2 n : Int) + 1)
        = (2 : ℝ) ^ (l + 1) * (2 : ℝ) ^ (Nat.log2 d : Int) := by
          rw [← zpow_add₀ (by norm_num)]; congr 1; omega
      _ ≤ _ := by gcongr
  · next h =>
    refine ⟨?_, by simpa using h⟩
    rw [le_div_iff₀ hdpos]
    refine le_trans ?_ hn1
    calc (2 : ℝ) ^ (l - 1) * d ≤ (2 : ℝ) ^ (l - 1) * (2 : ℝ) ^ ((Nat.log2 d : Int) + 1) := by
          gcongr
      _ = _ := by rw [← zpow_add₀ (by norm_num)]; congr 1; omega

/-- What `quantize` measures: the fraction is `quot + rem / den` quanta of `2^exp`, and the quantum
is that of 42_fp_conversion_and_reals.md R127. -/
theorem quantize_spec (F : Fmt) {n d : Nat} (k : Int) (hn : n ≠ 0) (hd : d ≠ 0) :
    let q := quantize F n d k
    let r := (n : ℝ) / d * (2 : ℝ) ^ k
    q.rem < q.den ∧ r = ((q.quot : ℝ) + q.rem / q.den) * (2 : ℝ) ^ q.exp ∧
      F.minQuantum ≤ q.exp ∧ r < (2 : ℝ) ^ (q.exp + F.precision) ∧
      (F.minQuantum < q.exp → (2 : ℝ) ^ (q.exp + F.fracBits) ≤ r) := by
  intro q r
  obtain ⟨h1, h2⟩ := floorLog2_spec hn hd
  have hexp : q.exp = max (floorLog2 n d + k) F.emin - (F.fracBits : Int) := rfl
  have hp : (F.precision : Int) = F.fracBits + 1 := by rw [← F.fracBits_succ]; simp
  have hden : q.den = d * 2 ^ (q.exp - k).toNat := rfl
  have hnum : q.quot * q.den + q.rem = n * 2 ^ (k - q.exp).toNat := by
    rw [mul_comm]; exact Nat.div_add_mod _ _
  have hden0 : 0 < q.den := by rw [hden]; positivity
  refine ⟨Nat.mod_lt _ hden0, ?_, ?_, ?_, ?_⟩
  · have hk : (2 : ℝ) ^ k = (2 : ℝ) ^ (k - q.exp) * (2 : ℝ) ^ q.exp := by
      rw [← zpow_add₀ (by norm_num)]; congr 1; omega
    have hq : (q.quot : ℝ) + q.rem / q.den = n * 2 ^ (k - q.exp).toNat / q.den := by
      field_simp
      exact_mod_cast hnum
    rw [hq, show r = (n : ℝ) / d * (2 : ℝ) ^ k from rfl, hk, two_pow_toNat (k - q.exp), hden]
    rw [show -(k - q.exp) = q.exp - k by ring]
    push_cast
    field_simp
  · rw [hexp, Fmt.minQuantum_eq]; omega
  · calc r < (2 : ℝ) ^ (floorLog2 n d + 1) * (2 : ℝ) ^ k := by
          show (n : ℝ) / d * (2 : ℝ) ^ k < _
          gcongr
      _ = (2 : ℝ) ^ (floorLog2 n d + 1 + k) := by rw [← zpow_add₀ (by norm_num)]
      _ ≤ _ := zpow_le_zpow_right₀ (by norm_num) (by omega)
  · intro h
    have he : q.exp + F.fracBits = floorLog2 n d + k := by
      rw [hexp] at h ⊢; rw [Fmt.minQuantum_eq] at h; omega
    rw [he, zpow_add₀ (by norm_num)]
    show _ ≤ (n : ℝ) / d * (2 : ℝ) ^ k
    gcongr

/-! ### Rounding -/

/-- `m` quanta as a value of the format: infinite exactly from `2^(emax + 1)` on, and otherwise the
canonical value of that magnitude. -/
theorem ofQuanta_spec (F : Fmt) (neg : Bool) {m : Nat} {t : Int} (hm : m ≤ 2 ^ F.precision)
    (ht : F.minQuantum ≤ t) (hlow : F.minQuantum < t → 2 ^ F.fracBits ≤ m) :
    ((2 : ℝ) ^ (F.emax + 1) ≤ (m : ℝ) * (2 : ℝ) ^ t → ofQuanta F neg m t = .inf neg) ∧
    ((m : ℝ) * (2 : ℝ) ^ t < (2 : ℝ) ^ (F.emax + 1) → (ofQuanta F neg m t).canonical F ∧
      ∃ m' e', ofQuanta F neg m t = .fin neg m' e' ∧
        (m' : ℝ) * (2 : ℝ) ^ e' = (m : ℝ) * (2 : ℝ) ^ t) := by
  have hp : (F.precision : Int) = F.fracBits + 1 := by rw [← F.fracBits_succ]; simp
  have hpn : F.precision = F.fracBits + 1 := F.fracBits_succ.symm
  have hmq := F.minQuantum_eq
  have hee := F.emin_lt_emax
  have hpow : (2 : Nat) ^ F.fracBits < 2 ^ F.precision := by
    rw [hpn]; exact Nat.pow_lt_pow_right (by norm_num) (by omega)
  unfold ofQuanta
  by_cases hmp : m = 2 ^ F.precision
  · have hval : (m : ℝ) * (2 : ℝ) ^ t = (2 : ℝ) ^ (F.precision + t) := by
      rw [zpow_add₀ (by norm_num), zpow_natCast, hmp]; push_cast; rfl
    rw [if_pos hmp, hval, zpow_le_zpow_iff_right₀ (by norm_num : (1 : ℝ) < 2),
      zpow_lt_zpow_iff_right₀ (by norm_num : (1 : ℝ) < 2)]
    unfold inRange
    constructor <;> intro h
    · rw [if_pos (by omega)]
    · rw [if_neg (by omega)]
      refine ⟨⟨hpow, by omega, by omega, by omega⟩, _, _, rfl, ?_⟩
      rw [show (F.precision : Int) + t = (F.fracBits : Int) + (t + 1) by omega,
        zpow_add₀ (by norm_num) (F.fracBits : Int), zpow_natCast]
      push_cast; rfl
  · have hm' : m < 2 ^ F.precision := by omega
    rw [if_neg hmp]
    unfold inRange
    by_cases hr : F.emax - (F.fracBits : Int) < t
    · have hle : (2 : ℝ) ^ (F.emax + 1) ≤ (m : ℝ) * (2 : ℝ) ^ t := by
        have h1 : (2 : ℝ) ^ F.fracBits ≤ m := by exact_mod_cast hlow (by omega)
        calc (2 : ℝ) ^ (F.emax + 1) ≤ (2 : ℝ) ^ ((F.fracBits : Int) + t) :=
              zpow_le_zpow_right₀ (by norm_num) (by omega)
          _ = (2 : ℝ) ^ F.fracBits * (2 : ℝ) ^ t := by
              rw [zpow_add₀ (by norm_num), zpow_natCast]
          _ ≤ _ := by gcongr
      exact ⟨fun _ => if_pos hr, fun h => absurd hle (not_le.2 h)⟩
    · have hlt : (m : ℝ) * (2 : ℝ) ^ t < (2 : ℝ) ^ (F.emax + 1) := by
        have h1 : (m : ℝ) < (2 : ℝ) ^ F.precision := by exact_mod_cast hm'
        calc (m : ℝ) * (2 : ℝ) ^ t < (2 : ℝ) ^ F.precision * (2 : ℝ) ^ t := by gcongr
          _ = (2 : ℝ) ^ ((F.precision : Int) + t) := by
              rw [zpow_add₀ (by norm_num), zpow_natCast]
          _ ≤ _ := zpow_le_zpow_right₀ (by norm_num) (by omega)
      rw [if_neg hr]
      refine ⟨fun h => absurd h (not_le.2 hlt), fun _ => ?_⟩
      refine ⟨⟨hm', ht, by omega, fun h => ?_⟩, _, _, rfl, rfl⟩
      by_contra hne
      exact absurd (hlow (by omega)) (by omega)

/-- The multiple `roundFrac` takes: at most `2^p` quanta, and at least `2^m` of them but at the
smallest quantum. -/
theorem quantize_quot_bounds (F : Fmt) {n d : Nat} (k : Int) (hn : n ≠ 0) (hd : d ≠ 0) :
    (quantize F n d k).quot < 2 ^ F.precision ∧
      (F.minQuantum < (quantize F n d k).exp → 2 ^ F.fracBits ≤ (quantize F n d k).quot) := by
  obtain ⟨hrem, hval, -, hup, hlo⟩ := quantize_spec F k hn hd
  set q := quantize F n d k
  have hden : (0 : ℝ) < q.den := by exact_mod_cast (Nat.zero_le _).trans_lt hrem
  have hfrac : (q.rem : ℝ) / q.den < 1 := by rw [div_lt_one hden]; exact_mod_cast hrem
  have hfrac0 : 0 ≤ (q.rem : ℝ) / q.den := by positivity
  have hq0 : (0 : ℝ) < (2 : ℝ) ^ q.exp := by positivity
  rw [hval] at hup hlo
  constructor
  · rw [add_comm q.exp, zpow_add₀ (by norm_num), zpow_natCast] at hup
    have := lt_of_mul_lt_mul_right hup hq0.le
    have h2 : (q.quot : ℝ) < (2 : ℝ) ^ F.precision := by linarith
    exact_mod_cast h2
  · intro h
    have := hlo h
    rw [add_comm q.exp, zpow_add₀ (by norm_num), zpow_natCast] at this
    have := le_of_mul_le_mul_right this hq0
    have h2 : (2 : ℝ) ^ F.fracBits < (q.quot : ℝ) + 1 := by linarith
    have h3 : 2 ^ F.fracBits < q.quot + 1 := by exact_mod_cast h2
    omega

/-- `roundFrac` rounds correctly (42_fp_conversion_and_reals.md R127). -/
theorem roundFrac_roundsTo (F : Fmt) (neg : Bool) {n d : Nat} (k : Int) (hn : n ≠ 0) (hd : d ≠ 0) :
    RoundsTo F ((if neg then -1 else 1) * ((n : ℝ) / d * (2 : ℝ) ^ k)) (roundFrac F neg n d k) := by
  obtain ⟨hrem, hval, hmin, hup, hlo⟩ := quantize_spec F k hn hd
  obtain ⟨hb1, hb2⟩ := quantize_quot_bounds F k hn hd
  have hr0 : 0 < (n : ℝ) / d * (2 : ℝ) ^ k := by positivity
  have hdef : roundFrac F neg n d k = ofQuanta F neg
      (if (quantize F n d k).roundsUp then (quantize F n d k).quot + 1 else (quantize F n d k).quot)
      (quantize F n d k).exp := by
    unfold roundFrac
    rw [if_neg hn]
  rw [hdef]
  set q := quantize F n d k
  set r := (n : ℝ) / d * (2 : ℝ) ^ k
  set m := if q.roundsUp then q.quot + 1 else q.quot with hm
  have habs : abs ((if neg then -1 else 1) * r) = r := by
    cases neg <;> simp [abs_of_pos hr0]
  have hneg : decide ((if neg then -1 else 1) * r < 0) = neg := by
    cases neg
    · simp [hr0.le]
    · simp [hr0]
  have hp : (F.precision : Int) = F.fracBits + 1 := by rw [← F.fracBits_succ]; simp
  have hmq := F.minQuantum_eq
  have hden : (0 : ℝ) < q.den := by exact_mod_cast (Nat.zero_le _).trans_lt hrem
  have hq0 : (0 : ℝ) < (2 : ℝ) ^ q.exp := by positivity
  have hdiff : (m : ℝ) * (2 : ℝ) ^ q.exp - r =
      ((if q.roundsUp then 1 else 0) - (q.rem : ℝ) / q.den) * (2 : ℝ) ^ q.exp := by
    rw [show r = _ from hval, hm]
    split <;> (push_cast; ring)
  have hup' : q.roundsUp = true → (1 : ℝ) / 2 ≤ (q.rem : ℝ) / q.den ∧
      ((q.rem : ℝ) / q.den = 1 / 2 → q.quot % 2 = 1) := by
    intro h
    simp only [Quanta.roundsUp, Bool.or_eq_true, Bool.and_eq_true, decide_eq_true_eq] at h
    rw [div_le_div_iff₀ (by norm_num) hden, div_eq_div_iff hden.ne' (by norm_num)]
    constructor
    · have : q.den ≤ 2 * q.rem := by omega
      have : (q.den : ℝ) ≤ 2 * q.rem := by exact_mod_cast this
      linarith
    · intro he
      have : q.rem * 2 = 1 * q.den := by exact_mod_cast he
      omega
  have hdn' : q.roundsUp = false → (q.rem : ℝ) / q.den ≤ 1 / 2 ∧
      ((q.rem : ℝ) / q.den = 1 / 2 → q.quot % 2 = 0) := by
    intro h
    simp only [Quanta.roundsUp, Bool.or_eq_false_iff, Bool.and_eq_false_iff,
      decide_eq_false_iff_not] at h
    rw [div_le_div_iff₀ hden (by norm_num), div_eq_div_iff hden.ne' (by norm_num)]
    constructor
    · have : 2 * q.rem ≤ q.den := by omega
      have : 2 * (q.rem : ℝ) ≤ q.den := by exact_mod_cast this
      linarith
    · intro he
      have : q.rem * 2 = 1 * q.den := by exact_mod_cast he
      omega
  have hfrac : (q.rem : ℝ) / q.den < 1 := by rw [div_lt_one hden]; exact_mod_cast hrem
  have hfrac0 : 0 ≤ (q.rem : ℝ) / q.den := by positivity
  refine ⟨q.exp + F.fracBits, m, by omega, ?_, ?_, ?_, ?_, ?_⟩
  · rw [habs, show q.exp + (F.fracBits : Int) + 1 = q.exp + F.precision by omega]
    exact hup
  · intro h
    rw [habs]
    exact hlo (by omega)
  · rw [habs, add_sub_cancel_right, hdiff, abs_mul, abs_of_pos hq0]
    have hhalf : abs ((if q.roundsUp then 1 else 0) - (q.rem : ℝ) / q.den) ≤ 1 / 2 := by
      cases h : q.roundsUp
      · rw [if_neg (by simp), zero_sub, abs_neg, abs_of_nonneg hfrac0]
        exact (hdn' h).1
      · have := (hup' h).1
        rw [if_pos rfl, abs_of_pos (by linarith)]
        linarith
    have := mul_le_mul_of_nonneg_right hhalf hq0.le
    linarith
  · rw [habs, add_sub_cancel_right, hdiff, abs_mul, abs_of_pos hq0]
    intro he
    have he' : abs ((if q.roundsUp then 1 else 0) - (q.rem : ℝ) / q.den) = 1 / 2 := by
      have : abs ((if q.roundsUp then 1 else 0) - (q.rem : ℝ) / q.den) * (2 : ℝ) ^ q.exp =
        1 / 2 * (2 : ℝ) ^ q.exp := by rw [he]; ring
      exact mul_right_cancel₀ hq0.ne' this
    cases h : q.roundsUp
    · rw [h, if_neg (by simp), zero_sub, abs_neg, abs_of_nonneg hfrac0] at he'
      rw [hm, h]
      exact (hdn' h).2 he'
    · rw [h, if_pos rfl, abs_of_pos (by linarith)] at he'
      have := (hup' h).2 (by linarith)
      rw [hm, h, if_pos rfl]
      omega
  · rw [add_sub_cancel_right, hneg]
    refine ofQuanta_spec F neg ?_ hmin fun h => ?_
    · rw [hm]; split <;> omega
    · have := hb2 h
      rw [hm]; split <;> omega

/-- What `round_F` gives is in the form its encoding has, and no NaN. -/
theorem RoundsTo.canonical {F : Fmt} {r : ℝ} {v : Fp} (h : RoundsTo F r v) :
    v.canonical F ∧ v ≠ .nan := by
  obtain ⟨e, m, -, -, -, -, -, hi, hf⟩ := h
  rcases le_or_gt ((2 : ℝ) ^ (F.emax + 1)) ((m : ℝ) * (2 : ℝ) ^ (e - F.fracBits)) with h | h
  · rw [hi h]; exact ⟨trivial, by simp⟩
  · obtain ⟨hc, m', e', rfl, -⟩ := hf h
    exact ⟨hc, by simp⟩

/-- `roundFrac` gives a value in the form its encoding has, and no NaN. -/
theorem roundFrac_canonical (F : Fmt) (neg : Bool) (n : Nat) {d : Nat} (k : Int) (hd : d ≠ 0) :
    (roundFrac F neg n d k).canonical F ∧ roundFrac F neg n d k ≠ .nan := by
  by_cases hn : n = 0
  · subst hn
    have : roundFrac F neg 0 d k = .fin neg 0 F.minQuantum := by simp [roundFrac, Fp.zero]
    rw [this]
    refine ⟨⟨by positivity, le_rfl, ?_, fun _ => rfl⟩, by simp⟩
    cases F <;> decide
  · exact (roundFrac_roundsTo F neg k hn hd).canonical

/-! ### The primitives -/

theorem Fp.canonical_zero (F : Fmt) (neg : Bool) : (Fp.zero F neg).canonical F := by
  cases F <;> exact ⟨by decide, by decide, by decide, fun _ => rfl⟩

theorem Fp.canonical_cvt (F : Fmt) (i : Int) : (Fp.cvt F i).canonical F :=
  (roundFrac_canonical F _ _ _ one_ne_zero).1

theorem Fp.canonical_mul (F : Fmt) (a b : Fp) : (Fp.mul F a b).canonical F := by
  unfold Fp.mul
  split
  any_goals split
  all_goals first
    | trivial
    | exact (roundFrac_canonical F _ _ _ one_ne_zero).1

theorem Fp.canonical_div (F : Fmt) (a b : Fp) : (Fp.div F a b).canonical F := by
  unfold Fp.div
  split
  any_goals split
  any_goals split
  all_goals first
    | trivial
    | exact Fp.canonical_zero F _
    | exact (roundFrac_canonical F _ _ _ (by assumption)).1

theorem Fp.canonical_add (F : Fmt) (a b : Fp) : (Fp.add F a b).canonical F := by
  unfold Fp.add
  split
  any_goals split
  all_goals first
    | trivial
    | exact (roundFrac_canonical F _ _ _ one_ne_zero).1

/-! ### The integer square root -/

theorem isqrtFrom_spec (b n r : Nat) (hlo : r * r ≤ n) (hhi : n < (r + 2 ^ b) * (r + 2 ^ b)) :
    isqrtFrom b n r * isqrtFrom b n r ≤ n ∧
      n < (isqrtFrom b n r + 1) * (isqrtFrom b n r + 1) := by
  induction b generalizing r with
  | zero => exact ⟨hlo, by simpa [isqrtFrom] using hhi⟩
  | succ b ih =>
    unfold isqrtFrom
    simp only
    split
    · next h => exact ih _ h (by rw [pow_succ] at hhi; rwa [add_assoc, ← mul_two])
    · next h => exact ih _ hlo (by omega)

/-- `isqrt` is the greatest number whose square is at most `n`. -/
theorem isqrt_spec (n : Nat) : isqrt n * isqrt n ≤ n ∧ n < (isqrt n + 1) * (isqrt n + 1) := by
  refine isqrtFrom_spec _ n 0 (by simp) ?_
  rw [zero_add, ← pow_add]
  refine Nat.lt_log2_self.trans_le (Nat.pow_le_pow_right (by norm_num) ?_)
  omega

end Machine

end Sys2Proof
end

