-- ==== Sys2Proof/Laws/State.lean ====
section
/-! SUPPORT. What each named update of the state leaves in each field: one lemma per field per
update, so that no later proof unfolds a record update. -/

namespace Sys2Proof.Machine

/-! ### `State.respond` -/

@[simp] theorem State.respond_g32 (r0 r1 r2 : Word64) (s : State) :
    (s.respond r0 r1 r2).g32 = s.g32 := rfl
@[simp] theorem State.respond_g64 (r0 r1 r2 : Word64) (s : State) :
    (s.respond r0 r1 r2).g64 = s.g64 := rfl
@[simp] theorem State.respond_phase (r0 r1 r2 : Word64) (s : State) :
    (s.respond r0 r1 r2).phase = .responding ⟨.ok, r0, r1, r2⟩ := rfl
@[simp] theorem State.respond_cmd (r0 r1 r2 : Word64) (s : State) :
    (s.respond r0 r1 r2).cmd = s.cmd := rfl
@[simp] theorem State.respond_arg (r0 r1 r2 : Word64) (s : State) :
    (s.respond r0 r1 r2).arg = s.arg := rfl
@[simp] theorem State.respond_resetSeen (r0 r1 r2 : Word64) (s : State) :
    (s.respond r0 r1 r2).resetSeen = s.resetSeen := rfl
@[simp] theorem State.respond_rst (r0 r1 r2 : Word64) (s : State) :
    (s.respond r0 r1 r2).rst = s.rst := rfl
@[simp] theorem State.respond_rspReady (r0 r1 r2 : Word64) (s : State) :
    (s.respond r0 r1 r2).rspReady = s.rspReady := rfl
@[simp] theorem State.respond_commands (r0 r1 r2 : Word64) (s : State) :
    (s.respond r0 r1 r2).commands = s.commands := rfl
@[simp] theorem State.respond_received (r0 r1 r2 : Word64) (s : State) :
    (s.respond r0 r1 r2).received = s.received := rfl
@[simp] theorem State.respond_draws (r0 r1 r2 : Word64) (s : State) :
    (s.respond r0 r1 r2).draws = s.draws := rfl

/-! ### `State.raise` -/

@[simp] theorem State.raise_g32 (e : Exception) (s : State) :
    (s.raise e).g32 = s.g32 := rfl
@[simp] theorem State.raise_g64 (e : Exception) (s : State) :
    (s.raise e).g64 = s.g64 := rfl
@[simp] theorem State.raise_phase (e : Exception) (s : State) :
    (s.raise e).phase = .responding ⟨e.status, 0, 0, 0⟩ := rfl
@[simp] theorem State.raise_cmd (e : Exception) (s : State) :
    (s.raise e).cmd = s.cmd := rfl
@[simp] theorem State.raise_arg (e : Exception) (s : State) :
    (s.raise e).arg = s.arg := rfl
@[simp] theorem State.raise_resetSeen (e : Exception) (s : State) :
    (s.raise e).resetSeen = s.resetSeen := rfl
@[simp] theorem State.raise_rst (e : Exception) (s : State) :
    (s.raise e).rst = s.rst := rfl
@[simp] theorem State.raise_rspReady (e : Exception) (s : State) :
    (s.raise e).rspReady = s.rspReady := rfl
@[simp] theorem State.raise_commands (e : Exception) (s : State) :
    (s.raise e).commands = s.commands := rfl
@[simp] theorem State.raise_received (e : Exception) (s : State) :
    (s.raise e).received = s.received := rfl
@[simp] theorem State.raise_draws (e : Exception) (s : State) :
    (s.raise e).draws = s.draws := rfl

/-! ### `State.takeResponse` -/

@[simp] theorem State.takeResponse_g32 (r : Response) (s : State) :
    (s.takeResponse r).g32 = s.g32 := rfl
@[simp] theorem State.takeResponse_g64 (r : Response) (s : State) :
    (s.takeResponse r).g64 = s.g64 := rfl
@[simp] theorem State.takeResponse_phase (r : Response) (s : State) :
    (s.takeResponse r).phase = .idle := rfl
@[simp] theorem State.takeResponse_cmd (r : Response) (s : State) :
    (s.takeResponse r).cmd = s.cmd := rfl
@[simp] theorem State.takeResponse_arg (r : Response) (s : State) :
    (s.takeResponse r).arg = s.arg := rfl
@[simp] theorem State.takeResponse_resetSeen (r : Response) (s : State) :
    (s.takeResponse r).resetSeen = s.resetSeen := rfl
@[simp] theorem State.takeResponse_rst (r : Response) (s : State) :
    (s.takeResponse r).rst = s.rst := rfl
@[simp] theorem State.takeResponse_rspReady (r : Response) (s : State) :
    (s.takeResponse r).rspReady = s.rspReady := rfl
@[simp] theorem State.takeResponse_commands (r : Response) (s : State) :
    (s.takeResponse r).commands = s.commands := rfl
@[simp] theorem State.takeResponse_received (r : Response) (s : State) :
    (s.takeResponse r).received = s.received ++ [r] := rfl
@[simp] theorem State.takeResponse_draws (r : Response) (s : State) :
    (s.takeResponse r).draws = s.draws := rfl

/-! ### `State.respondReal` -/

@[simp] theorem State.respondReal_g32 (F : Fmt) (v : Fp) (s : State) :
    (s.respondReal F v).g32 = s.g32 := rfl
@[simp] theorem State.respondReal_g64 (F : Fmt) (v : Fp) (s : State) :
    (s.respondReal F v).g64 = s.g64 := rfl
@[simp] theorem State.respondReal_phase (F : Fmt) (v : Fp) (s : State) :
    (s.respondReal F v).phase = .responding ⟨.ok, resultWord F s.draws v, 0, 0⟩ := rfl
@[simp] theorem State.respondReal_cmd (F : Fmt) (v : Fp) (s : State) :
    (s.respondReal F v).cmd = s.cmd := rfl
@[simp] theorem State.respondReal_arg (F : Fmt) (v : Fp) (s : State) :
    (s.respondReal F v).arg = s.arg := rfl
@[simp] theorem State.respondReal_resetSeen (F : Fmt) (v : Fp) (s : State) :
    (s.respondReal F v).resetSeen = s.resetSeen := rfl
@[simp] theorem State.respondReal_rst (F : Fmt) (v : Fp) (s : State) :
    (s.respondReal F v).rst = s.rst := rfl
@[simp] theorem State.respondReal_rspReady (F : Fmt) (v : Fp) (s : State) :
    (s.respondReal F v).rspReady = s.rspReady := rfl
@[simp] theorem State.respondReal_commands (F : Fmt) (v : Fp) (s : State) :
    (s.respondReal F v).commands = s.commands := rfl
@[simp] theorem State.respondReal_received (F : Fmt) (v : Fp) (s : State) :
    (s.respondReal F v).received = s.received := rfl
@[simp] theorem State.respondReal_draws (F : Fmt) (v : Fp) (s : State) :
    (s.respondReal F v).draws = drawsAfter s.draws v := rfl

/-! ### `State.respondPair` -/

@[simp] theorem State.respondPair_g32 (F : Fmt) (v0 v1 : Fp) (s : State) :
    (s.respondPair F v0 v1).g32 = s.g32 := rfl
@[simp] theorem State.respondPair_g64 (F : Fmt) (v0 v1 : Fp) (s : State) :
    (s.respondPair F v0 v1).g64 = s.g64 := rfl
@[simp] theorem State.respondPair_phase (F : Fmt) (v0 v1 : Fp) (s : State) :
    (s.respondPair F v0 v1).phase = .responding ⟨.ok, resultWord F s.draws v0, resultWord F (drawsAfter s.draws v0) v1, 0⟩ := rfl
@[simp] theorem State.respondPair_cmd (F : Fmt) (v0 v1 : Fp) (s : State) :
    (s.respondPair F v0 v1).cmd = s.cmd := rfl
@[simp] theorem State.respondPair_arg (F : Fmt) (v0 v1 : Fp) (s : State) :
    (s.respondPair F v0 v1).arg = s.arg := rfl
@[simp] theorem State.respondPair_resetSeen (F : Fmt) (v0 v1 : Fp) (s : State) :
    (s.respondPair F v0 v1).resetSeen = s.resetSeen := rfl
@[simp] theorem State.respondPair_rst (F : Fmt) (v0 v1 : Fp) (s : State) :
    (s.respondPair F v0 v1).rst = s.rst := rfl
@[simp] theorem State.respondPair_rspReady (F : Fmt) (v0 v1 : Fp) (s : State) :
    (s.respondPair F v0 v1).rspReady = s.rspReady := rfl
@[simp] theorem State.respondPair_commands (F : Fmt) (v0 v1 : Fp) (s : State) :
    (s.respondPair F v0 v1).commands = s.commands := rfl
@[simp] theorem State.respondPair_received (F : Fmt) (v0 v1 : Fp) (s : State) :
    (s.respondPair F v0 v1).received = s.received := rfl
@[simp] theorem State.respondPair_draws (F : Fmt) (v0 v1 : Fp) (s : State) :
    (s.respondPair F v0 v1).draws = drawsAfter (drawsAfter s.draws v0) v1 := rfl

/-! ### `State.respondTriple` -/

@[simp] theorem State.respondTriple_g32 (F : Fmt) (v0 v1 v2 : Fp) (s : State) :
    (s.respondTriple F v0 v1 v2).g32 = s.g32 := rfl
@[simp] theorem State.respondTriple_g64 (F : Fmt) (v0 v1 v2 : Fp) (s : State) :
    (s.respondTriple F v0 v1 v2).g64 = s.g64 := rfl
@[simp] theorem State.respondTriple_phase (F : Fmt) (v0 v1 v2 : Fp) (s : State) :
    (s.respondTriple F v0 v1 v2).phase = .responding ⟨.ok, resultWord F s.draws v0, resultWord F (drawsAfter s.draws v0) v1,
      resultWord F (drawsAfter (drawsAfter s.draws v0) v1) v2⟩ := rfl
@[simp] theorem State.respondTriple_cmd (F : Fmt) (v0 v1 v2 : Fp) (s : State) :
    (s.respondTriple F v0 v1 v2).cmd = s.cmd := rfl
@[simp] theorem State.respondTriple_arg (F : Fmt) (v0 v1 v2 : Fp) (s : State) :
    (s.respondTriple F v0 v1 v2).arg = s.arg := rfl
@[simp] theorem State.respondTriple_resetSeen (F : Fmt) (v0 v1 v2 : Fp) (s : State) :
    (s.respondTriple F v0 v1 v2).resetSeen = s.resetSeen := rfl
@[simp] theorem State.respondTriple_rst (F : Fmt) (v0 v1 v2 : Fp) (s : State) :
    (s.respondTriple F v0 v1 v2).rst = s.rst := rfl
@[simp] theorem State.respondTriple_rspReady (F : Fmt) (v0 v1 v2 : Fp) (s : State) :
    (s.respondTriple F v0 v1 v2).rspReady = s.rspReady := rfl
@[simp] theorem State.respondTriple_commands (F : Fmt) (v0 v1 v2 : Fp) (s : State) :
    (s.respondTriple F v0 v1 v2).commands = s.commands := rfl
@[simp] theorem State.respondTriple_received (F : Fmt) (v0 v1 v2 : Fp) (s : State) :
    (s.respondTriple F v0 v1 v2).received = s.received := rfl
@[simp] theorem State.respondTriple_draws (F : Fmt) (v0 v1 v2 : Fp) (s : State) :
    (s.respondTriple F v0 v1 v2).draws = drawsAfter (drawsAfter (drawsAfter s.draws v0) v1) v2 := rfl

/-! ### `State.accept` -/

@[simp] theorem State.accept_g32 (c : Command) (rest : List Command) (s : State) :
    (s.accept c rest).g32 = s.g32 := rfl
@[simp] theorem State.accept_g64 (c : Command) (rest : List Command) (s : State) :
    (s.accept c rest).g64 = s.g64 := rfl
@[simp] theorem State.accept_phase (c : Command) (rest : List Command) (s : State) :
    (s.accept c rest).phase = .executing := rfl
@[simp] theorem State.accept_cmd (c : Command) (rest : List Command) (s : State) :
    (s.accept c rest).cmd = c.cmd := rfl
@[simp] theorem State.accept_arg (c : Command) (rest : List Command) (s : State) :
    (s.accept c rest).arg = c.arg := rfl
@[simp] theorem State.accept_resetSeen (c : Command) (rest : List Command) (s : State) :
    (s.accept c rest).resetSeen = s.resetSeen := rfl
@[simp] theorem State.accept_rst (c : Command) (rest : List Command) (s : State) :
    (s.accept c rest).rst = s.rst := rfl
@[simp] theorem State.accept_rspReady (c : Command) (rest : List Command) (s : State) :
    (s.accept c rest).rspReady = s.rspReady := rfl
@[simp] theorem State.accept_commands (c : Command) (rest : List Command) (s : State) :
    (s.accept c rest).commands = rest := rfl
@[simp] theorem State.accept_received (c : Command) (rest : List Command) (s : State) :
    (s.accept c rest).received = s.received := rfl
@[simp] theorem State.accept_draws (c : Command) (rest : List Command) (s : State) :
    (s.accept c rest).draws = s.draws := rfl

/-! ### `State.resetBlock` -/

@[simp] theorem State.resetBlock_g32 (s : State) :
    (s.resetBlock).g32 = State.reset.g32 := rfl
@[simp] theorem State.resetBlock_g64 (s : State) :
    (s.resetBlock).g64 = State.reset.g64 := rfl
@[simp] theorem State.resetBlock_phase (s : State) :
    (s.resetBlock).phase = .idle := rfl
@[simp] theorem State.resetBlock_cmd (s : State) :
    (s.resetBlock).cmd = 0 := rfl
@[simp] theorem State.resetBlock_arg (s : State) :
    (s.resetBlock).arg = 0 := rfl
@[simp] theorem State.resetBlock_resetSeen (s : State) :
    (s.resetBlock).resetSeen = true := rfl
@[simp] theorem State.resetBlock_rst (s : State) :
    (s.resetBlock).rst = s.rst := rfl
@[simp] theorem State.resetBlock_rspReady (s : State) :
    (s.resetBlock).rspReady = s.rspReady := rfl
@[simp] theorem State.resetBlock_commands (s : State) :
    (s.resetBlock).commands = s.commands := rfl
@[simp] theorem State.resetBlock_received (s : State) :
    (s.resetBlock).received = s.received := rfl
@[simp] theorem State.resetBlock_draws (s : State) :
    (s.resetBlock).draws = s.draws := rfl

/-! ### `State.driveRst` -/

@[simp] theorem State.driveRst_g32 (b : Bool) (s : State) :
    (s.driveRst b).g32 = s.g32 := rfl
@[simp] theorem State.driveRst_g64 (b : Bool) (s : State) :
    (s.driveRst b).g64 = s.g64 := rfl
@[simp] theorem State.driveRst_phase (b : Bool) (s : State) :
    (s.driveRst b).phase = s.phase := rfl
@[simp] theorem State.driveRst_cmd (b : Bool) (s : State) :
    (s.driveRst b).cmd = s.cmd := rfl
@[simp] theorem State.driveRst_arg (b : Bool) (s : State) :
    (s.driveRst b).arg = s.arg := rfl
@[simp] theorem State.driveRst_resetSeen (b : Bool) (s : State) :
    (s.driveRst b).resetSeen = s.resetSeen := rfl
@[simp] theorem State.driveRst_rst (b : Bool) (s : State) :
    (s.driveRst b).rst = b := rfl
@[simp] theorem State.driveRst_rspReady (b : Bool) (s : State) :
    (s.driveRst b).rspReady = s.rspReady := rfl
@[simp] theorem State.driveRst_commands (b : Bool) (s : State) :
    (s.driveRst b).commands = s.commands := rfl
@[simp] theorem State.driveRst_received (b : Bool) (s : State) :
    (s.driveRst b).received = s.received := rfl
@[simp] theorem State.driveRst_draws (b : Bool) (s : State) :
    (s.driveRst b).draws = s.draws := rfl

/-! ### `State.driveRspReady` -/

@[simp] theorem State.driveRspReady_g32 (b : Bool) (s : State) :
    (s.driveRspReady b).g32 = s.g32 := rfl
@[simp] theorem State.driveRspReady_g64 (b : Bool) (s : State) :
    (s.driveRspReady b).g64 = s.g64 := rfl
@[simp] theorem State.driveRspReady_phase (b : Bool) (s : State) :
    (s.driveRspReady b).phase = s.phase := rfl
@[simp] theorem State.driveRspReady_cmd (b : Bool) (s : State) :
    (s.driveRspReady b).cmd = s.cmd := rfl
@[simp] theorem State.driveRspReady_arg (b : Bool) (s : State) :
    (s.driveRspReady b).arg = s.arg := rfl
@[simp] theorem State.driveRspReady_resetSeen (b : Bool) (s : State) :
    (s.driveRspReady b).resetSeen = s.resetSeen := rfl
@[simp] theorem State.driveRspReady_rst (b : Bool) (s : State) :
    (s.driveRspReady b).rst = s.rst := rfl
@[simp] theorem State.driveRspReady_rspReady (b : Bool) (s : State) :
    (s.driveRspReady b).rspReady = b := rfl
@[simp] theorem State.driveRspReady_commands (b : Bool) (s : State) :
    (s.driveRspReady b).commands = s.commands := rfl
@[simp] theorem State.driveRspReady_received (b : Bool) (s : State) :
    (s.driveRspReady b).received = s.received := rfl
@[simp] theorem State.driveRspReady_draws (b : Bool) (s : State) :
    (s.driveRspReady b).draws = s.draws := rfl

/-! ### `State.present` -/

@[simp] theorem State.present_g32 (cs : List Command) (s : State) :
    (s.present cs).g32 = s.g32 := rfl
@[simp] theorem State.present_g64 (cs : List Command) (s : State) :
    (s.present cs).g64 = s.g64 := rfl
@[simp] theorem State.present_phase (cs : List Command) (s : State) :
    (s.present cs).phase = s.phase := rfl
@[simp] theorem State.present_cmd (cs : List Command) (s : State) :
    (s.present cs).cmd = s.cmd := rfl
@[simp] theorem State.present_arg (cs : List Command) (s : State) :
    (s.present cs).arg = s.arg := rfl
@[simp] theorem State.present_resetSeen (cs : List Command) (s : State) :
    (s.present cs).resetSeen = s.resetSeen := rfl
@[simp] theorem State.present_rst (cs : List Command) (s : State) :
    (s.present cs).rst = s.rst := rfl
@[simp] theorem State.present_rspReady (cs : List Command) (s : State) :
    (s.present cs).rspReady = s.rspReady := rfl
@[simp] theorem State.present_commands (cs : List Command) (s : State) :
    (s.present cs).commands = cs := rfl
@[simp] theorem State.present_received (cs : List Command) (s : State) :
    (s.present cs).received = s.received := rfl
@[simp] theorem State.present_draws (cs : List Command) (s : State) :
    (s.present cs).draws = s.draws := rfl

/-! ### `portWord` -/

@[simp] theorem portWord_g32 (w : Word32) (s : State) :
    (portWord w s).g32 = s.g32 := rfl
@[simp] theorem portWord_g64 (w : Word32) (s : State) :
    (portWord w s).g64 = s.g64 := rfl
@[simp] theorem portWord_phase (w : Word32) (s : State) :
    (portWord w s).phase = .idle := rfl
@[simp] theorem portWord_cmd (w : Word32) (s : State) :
    (portWord w s).cmd = s.cmd := rfl
@[simp] theorem portWord_arg (w : Word32) (s : State) :
    (portWord w s).arg = s.arg := rfl
@[simp] theorem portWord_resetSeen (w : Word32) (s : State) :
    (portWord w s).resetSeen = true := rfl
@[simp] theorem portWord_rst (w : Word32) (s : State) :
    (portWord w s).rst = false := rfl
@[simp] theorem portWord_rspReady (w : Word32) (s : State) :
    (portWord w s).rspReady = s.rspReady := rfl
@[simp] theorem portWord_commands (w : Word32) (s : State) :
    (portWord w s).commands = ⟨w, 0⟩ :: s.commands := rfl
@[simp] theorem portWord_received (w : Word32) (s : State) :
    (portWord w s).received = s.received := rfl
@[simp] theorem portWord_draws (w : Word32) (s : State) :
    (portWord w s).draws = s.draws := rfl

/-! ### `State.advance` -/

@[simp] theorem State.advance_g32_g32 (s : State) : (s.advance .g32).g32 = s.g32.step := rfl
@[simp] theorem State.advance_g32_g64 (s : State) : (s.advance .g32).g64 = s.g64 := rfl
@[simp] theorem State.advance_g64_g32 (s : State) : (s.advance .g64).g32 = s.g32 := rfl
@[simp] theorem State.advance_g64_g64 (s : State) : (s.advance .g64).g64 = s.g64.step := rfl
@[simp] theorem State.advance_phase (g : Gen) (s : State) : (s.advance g).phase = s.phase := by
  cases g <;> rfl
@[simp] theorem State.advance_cmd (g : Gen) (s : State) : (s.advance g).cmd = s.cmd := by
  cases g <;> rfl
@[simp] theorem State.advance_arg (g : Gen) (s : State) : (s.advance g).arg = s.arg := by
  cases g <;> rfl
@[simp] theorem State.advance_resetSeen (g : Gen) (s : State) : (s.advance g).resetSeen = s.resetSeen := by
  cases g <;> rfl
@[simp] theorem State.advance_rst (g : Gen) (s : State) : (s.advance g).rst = s.rst := by
  cases g <;> rfl
@[simp] theorem State.advance_rspReady (g : Gen) (s : State) : (s.advance g).rspReady = s.rspReady := by
  cases g <;> rfl
@[simp] theorem State.advance_commands (g : Gen) (s : State) : (s.advance g).commands = s.commands := by
  cases g <;> rfl
@[simp] theorem State.advance_received (g : Gen) (s : State) : (s.advance g).received = s.received := by
  cases g <;> rfl
@[simp] theorem State.advance_draws (g : Gen) (s : State) : (s.advance g).draws = s.draws := by
  cases g <;> rfl

/-! ### `State.afterIteration` -/

@[simp] theorem State.afterIteration_g32_g32 (s : State) :
    (s.afterIteration .g32).g32 = s.g32.step.step := rfl
@[simp] theorem State.afterIteration_g32_g64 (s : State) :
    (s.afterIteration .g32).g64 = s.g64 := rfl
@[simp] theorem State.afterIteration_g64_g32 (s : State) :
    (s.afterIteration .g64).g32 = s.g32 := rfl
@[simp] theorem State.afterIteration_g64_g64 (s : State) :
    (s.afterIteration .g64).g64 = s.g64.step.step := rfl
@[simp] theorem State.afterIteration_phase (g : Gen) (s : State) :
    (s.afterIteration g).phase = s.phase := by
  cases g <;> rfl
@[simp] theorem State.afterIteration_cmd (g : Gen) (s : State) :
    (s.afterIteration g).cmd = s.cmd := by
  cases g <;> rfl
@[simp] theorem State.afterIteration_arg (g : Gen) (s : State) :
    (s.afterIteration g).arg = s.arg := by
  cases g <;> rfl
@[simp] theorem State.afterIteration_resetSeen (g : Gen) (s : State) :
    (s.afterIteration g).resetSeen = s.resetSeen := by
  cases g <;> rfl
@[simp] theorem State.afterIteration_rst (g : Gen) (s : State) :
    (s.afterIteration g).rst = s.rst := by
  cases g <;> rfl
@[simp] theorem State.afterIteration_rspReady (g : Gen) (s : State) :
    (s.afterIteration g).rspReady = s.rspReady := by
  cases g <;> rfl
@[simp] theorem State.afterIteration_commands (g : Gen) (s : State) :
    (s.afterIteration g).commands = s.commands := by
  cases g <;> rfl
@[simp] theorem State.afterIteration_received (g : Gen) (s : State) :
    (s.afterIteration g).received = s.received := by
  cases g <;> rfl
@[simp] theorem State.afterIteration_draws (g : Gen) (s : State) :
    (s.afterIteration g).draws = s.draws := by
  cases g <;> rfl

/-! ### `State.reset` -/

@[simp] theorem State.reset_phase : State.reset.phase = .idle := rfl
@[simp] theorem State.reset_resetSeen : State.reset.resetSeen = true := rfl
@[simp] theorem State.reset_rst : State.reset.rst = false := rfl
@[simp] theorem State.reset_commands : State.reset.commands = [] := rfl
@[simp] theorem State.reset_received : State.reset.received = [] := rfl

end Sys2Proof.Machine
end

