-- ==== Sys2Proof/Laws/Ops.lean ====
section
/-! SUPPORT. Once for each shared operation, everything it can do: the burst of the rejection loop,
a command that ends with one, the command in the block, and a transition. -/

namespace Sys2Proof.Machine

/-! ### The selected generator -/

/-- An output is at most the declared maximum (10_state.md R28). -/
theorem State.stepOut_le_genMax (g : Gen) (s : State) :
    (s.stepOut g).toNat ≤ (genMax g).toNat := by
  cases g
  · have := s.g32.out.isLt
    simp [State.stepOut, genMax]
    omega
  · have := s.g64.out.isLt
    simp [State.stepOut, genMax]
    omega

/-- The mask of `gen(G)` keeps every bit an output has (41_uniform_int_sampler.md R110). -/
theorem State.genOut_eq_stepOut (g : Gen) (s : State) : s.genOut g = s.stepOut g := by
  have hle := s.stepOut_le_genMax g
  refine BitVec.eq_of_toNat_eq ?_
  unfold State.genOut
  rw [BitVec.toNat_and]
  cases g
  · exact (Nat.and_two_pow_sub_one_eq_mod (s.stepOut .g32).toNat 32).trans
      (Nat.mod_eq_of_lt (Nat.lt_succ_of_le hle))
  · exact (Nat.and_two_pow_sub_one_eq_mod (s.stepOut .g64).toNat 64).trans
      (Nat.mod_eq_of_lt (Nat.lt_succ_of_le hle))

/-! ### Iterations of the rejection loop -/

theorem State.afterIterations_succ (g : Gen) (k : Nat) (s : State) :
    s.afterIterations g (k + 1) = (s.afterIteration g).afterIterations g k := rfl

theorem State.afterIterations_add (g : Gen) (j k : Nat) (s : State) :
    s.afterIterations g (j + k) = (s.afterIterations g j).afterIterations g k := by
  induction j generalizing s with
  | zero => simp [State.afterIterations]
  | succ j ih => rw [Nat.succ_add, State.afterIterations_succ, ih, State.afterIterations_succ]

/-- Iterations change nothing but the selected generator. -/
theorem State.afterIterations_frame (g : Gen) (k : Nat) (s : State) :
    (s.afterIterations g k).phase = s.phase ∧ (s.afterIterations g k).cmd = s.cmd ∧
      (s.afterIterations g k).arg = s.arg ∧ (s.afterIterations g k).resetSeen = s.resetSeen ∧
      (s.afterIterations g k).rst = s.rst ∧ (s.afterIterations g k).rspReady = s.rspReady ∧
      (s.afterIterations g k).commands = s.commands ∧
      (s.afterIterations g k).received = s.received ∧
      (s.afterIterations g k).draws = s.draws := by
  induction k generalizing s with
  | zero => simp [State.afterIterations]
  | succ k ih =>
    have := ih (s.afterIteration g)
    simpa [State.afterIterations_succ] using this

/-- A burst that accepts: which iteration accepted, with which candidate, and the state after it. -/
theorem diskLoop_some {n : Nat} {g : Gen} {F : Fmt} {s t : State} {c : Candidate}
    (h : diskLoop n g F s = (some c, t)) :
    ∃ k < n, s.acceptsAfter g F k ∧ c = (s.afterIterations g k).candidate g F ∧
      t = s.afterIterations g (k + 1) := by
  induction n generalizing s with
  | zero => simp [diskLoop] at h
  | succ n ih =>
    unfold diskLoop at h
    split at h
    · next ha =>
      simp only [Prod.mk.injEq, Option.some.injEq] at h
      exact ⟨0, by omega, ⟨by simp, ha⟩, h.1.symm, h.2.symm⟩
    · next ha =>
      obtain ⟨k, hk, ⟨hrej, hacc⟩, hc, ht⟩ := ih h
      refine ⟨k + 1, by omega, ⟨?_, hacc⟩, hc, ht⟩
      intro j hj
      cases j with
      | zero => simpa [State.afterIterations] using ha
      | succ j => exact hrej j (by omega)

/-- A burst that does not accept: every iteration of it rejected. -/
theorem diskLoop_none {n : Nat} {g : Gen} {F : Fmt} {s t : State}
    (h : diskLoop n g F s = (none, t)) :
    (∀ j < n, ((s.afterIterations g j).candidate g F).accepted F = false) ∧
      t = s.afterIterations g n := by
  induction n generalizing s with
  | zero => simp_all [diskLoop, State.afterIterations]
  | succ n ih =>
    unfold diskLoop at h
    split at h
    · simp at h
    · next ha =>
      obtain ⟨hrej, ht⟩ := ih h
      refine ⟨?_, ht⟩
      intro j hj
      cases j with
      | zero => simpa [State.afterIterations] using ha
      | succ j => exact hrej j (by omega)

/-- A loop accepts in one iteration at most. -/
theorem State.acceptsAfter_unique {g : Gen} {F : Fmt} {s : State} {j k : Nat}
    (hj : s.acceptsAfter g F j) (hk : s.acceptsAfter g F k) : j = k := by
  rcases Nat.lt_trichotomy j k with h | h | h
  · exact absurd hj.2 (by simp [hk.1 j h])
  · exact h
  · exact absurd hk.2 (by simp [hj.1 k h])

/-- A burst that reaches the accepting iteration returns its candidate. -/
theorem diskLoop_of_acceptsAfter {n k : Nat} {g : Gen} {F : Fmt} {s : State}
    (hk : k < n) (h : s.acceptsAfter g F k) :
    diskLoop n g F s =
      (some ((s.afterIterations g k).candidate g F), s.afterIterations g (k + 1)) := by
  match hd : diskLoop n g F s with
  | (some c, t) =>
    obtain ⟨j, -, hj, rfl, rfl⟩ := diskLoop_some hd
    rw [State.acceptsAfter_unique hj h]
  | (none, t) => exact absurd h.2 (by simp [(diskLoop_none hd).1 k hk])

/-- A burst that stops short of the accepting iteration returns no candidate. -/
theorem diskLoop_of_rejects {n : Nat} {g : Gen} {F : Fmt} {s : State}
    (h : ∀ j < n, ((s.afterIterations g j).candidate g F).accepted F = false) :
    diskLoop n g F s = (none, s.afterIterations g n) := by
  match hd : diskLoop n g F s with
  | (some c, t) =>
    obtain ⟨j, hj, ha, -, -⟩ := diskLoop_some hd
    exact absurd ha.2 (by simp [h j hj])
  | (none, t) => rw [(diskLoop_none hd).2]

/-- What a command with a rejection loop does: it ends with the accepted candidate, or stays in the
block after a burst of rejections. -/
theorem withDisk_cases (g : Gen) (F : Fmt) (finish : Candidate → State → State) (s : State) :
    (∃ k < Config.diskBurst, s.acceptsAfter g F k ∧
      withDisk g F finish s = .next
        (finish ((s.afterIterations g k).candidate g F) (s.afterIterations g (k + 1)))) ∨
    ((∀ j < Config.diskBurst, ((s.afterIterations g j).candidate g F).accepted F = false) ∧
      withDisk g F finish s =
        .next { s.afterIterations g Config.diskBurst with phase := .executing }) := by
  unfold withDisk
  split
  · next hd =>
    obtain ⟨k, hk, ha, rfl, rfl⟩ := diskLoop_some hd
    exact .inl ⟨k, hk, ha, rfl⟩
  · next hd =>
    obtain ⟨hr, rfl⟩ := diskLoop_none hd
    exact .inr ⟨hr, rfl⟩

/-- Repeating a command with a rejection loop until it has accepted: the bursts that reject do
nothing but iterate, and the last one finishes. `finish` must overwrite the phase, as every ending
of a command does. -/
theorem repeatExec_of_acceptsAfter {i : Instr} {g : Gen} {F : Fmt}
    {finish : Candidate → State → State} (hi : ∀ u, exec i u = withDisk g F finish u)
    (hf : ∀ c u p, finish c { u with phase := p } = finish c u) {s : State} {k : Nat}
    (h : s.acceptsAfter g F k) :
    repeatExec i (k / Config.diskBurst + 1) s =
      .next (finish ((s.afterIterations g k).candidate g F) (s.afterIterations g (k + 1))) := by
  have hb : 0 < Config.diskBurst := by decide
  have frame : ∀ (n : Nat) (u : State) (p : Phase),
      ({ u with phase := p } : State).afterIterations g n =
        { u.afterIterations g n with phase := p } := by
    intro n
    induction n with
    | zero => intro u p; rfl
    | succ n ih =>
      intro u p
      rw [State.afterIterations_succ, State.afterIterations_succ, ← ih]
      cases g <;> rfl
  have cand : ∀ (u : State) (p : Phase),
      ({ u with phase := p } : State).candidate g F = u.candidate g F := by
    intro u p
    cases g <;> rfl
  induction hq : k / Config.diskBurst generalizing s k with
  | zero =>
    have hk : k < Config.diskBurst := by
      rcases Nat.div_eq_zero_iff.1 hq with h0 | h0
      · omega
      · exact h0
    simp only [repeatExec, hi, withDisk, diskLoop_of_acceptsAfter hk h]
  | succ q ih =>
    have hk : Config.diskBurst ≤ k := by
      by_contra hlt
      rw [Nat.div_eq_of_lt (by omega)] at hq
      omega
    obtain ⟨j, rfl⟩ := Nat.exists_eq_add_of_le hk
    have hj : j / Config.diskBurst = q := by
      rw [Nat.add_div_left _ hb] at hq
      omega
    have hfirst : exec i s =
        .next { s.afterIterations g Config.diskBurst with phase := .executing } := by
      rw [hi, withDisk, diskLoop_of_rejects fun m hm => h.1 m (by omega)]
    have hrest : State.acceptsAfter g F j
        { s.afterIterations g Config.diskBurst with phase := .executing } := by
      constructor
      · intro m hm
        rw [frame, cand, ← State.afterIterations_add]
        exact h.1 _ (by omega)
      · rw [frame, cand, ← State.afterIterations_add]
        exact h.2
    have := ih hrest hj
    rw [repeatExec, hfirst]
    simp only
    rw [this, frame j (s.afterIterations g Config.diskBurst) .executing,
      frame (j + 1) (s.afterIterations g Config.diskBurst) .executing, cand, hf,
      ← State.afterIterations_add, ← State.afterIterations_add, ← Nat.add_assoc]

/-! ### Commands and transitions -/

/-- Every command answers a next state. -/
theorem exec_next (i : Instr) (s : State) : ∃ t, exec i s = .next t := by
  cases i with
  | disk g F => rcases withDisk_cases g F (fun c t => t.respondTriple F c.x c.y c.s) s with
    ⟨_, _, _, h⟩ | ⟨_, h⟩ <;> exact ⟨_, h⟩
  | gauss g F => rcases withDisk_cases g F (finishPoint F gaussFactor) s with
    ⟨_, _, _, h⟩ | ⟨_, h⟩ <;> exact ⟨_, h⟩
  | gaussr g F => rcases withDisk_cases g F (finishScaled F gaussFactor) s with
    ⟨_, _, _, h⟩ | ⟨_, h⟩ <;> exact ⟨_, h⟩
  | expo g F => rcases withDisk_cases g F (finishPoint F expoFactor) s with
    ⟨_, _, _, h⟩ | ⟨_, h⟩ <;> exact ⟨_, h⟩
  | expor g F => rcases withDisk_cases g F (finishScaled F expoFactor) s with
    ⟨_, _, _, h⟩ | ⟨_, h⟩ <;> exact ⟨_, h⟩
  | _ => exact ⟨_, rfl⟩

/-- The command in the block: what its word decodes to, or the fault of an illegal word. -/
theorem runCommand_cases (s : State) :
    (∃ i, decode s.cmd = .ok i ∧ runCommand s = exec i s) ∨
      (∃ e, decode s.cmd = .error e ∧ runCommand s = .next (s.raise .illegalCommand)) := by
  unfold runCommand
  match h : decode s.cmd with
  | .ok i => exact .inl ⟨i, rfl, rfl⟩
  | .error e => exact .inr ⟨e, rfl, rfl⟩

/-- Everything a transition can do. -/
theorem step_cases (s : State) :
    (s.rst = true ∧ step s = .next s.resetBlock) ∨
    (s.rst = false ∧ s.resetSeen = false ∧ s.commands = [] ∧ step s = .next s) ∨
    (s.rst = false ∧ s.resetSeen = false ∧ s.commands ≠ [] ∧
      step s = .refused .commandBeforeReset) ∨
    (s.live ∧ s.phase = .idle ∧ s.commands = [] ∧ step s = .next s) ∨
    (∃ c rest, s.live ∧ s.phase = .idle ∧ s.commands = c :: rest ∧
      step s = runCommand (s.accept c rest)) ∨
    (s.live ∧ s.phase = .executing ∧ step s = runCommand s) ∨
    (∃ r, s.live ∧ s.phase = .responding r ∧ s.rspReady = true ∧
      step s = .next (s.takeResponse r)) ∨
    (∃ r, s.live ∧ s.phase = .responding r ∧ s.rspReady = false ∧ step s = .next s) := by
  unfold step transition runBlock beforeReset State.live
  cases hr : s.rst <;> cases hs : s.resetSeen <;> cases hp : s.phase <;>
    cases hc : s.commands <;> cases hy : s.rspReady <;> simp

/-- Everything one more burst can do for the untimed `exec`: respond, go on executing, or, where the
command leaves the block idle, nothing. -/
theorem runToResponse_succ {n : Nat} {s t : State} (h : runCommand s = .next t) :
    runToResponse (n + 1) s =
      match t.phase with
      | .responding r => some (r, t)
      | .executing => runToResponse n t
      | .idle => none := by
  cases hp : t.phase <;> simp [runToResponse, h, hp]

/-- More fuel does not change a response that has been reached. -/
theorem runToResponse_add {n : Nat} (m : Nat) {s t : State} {r : Response}
    (h : runToResponse n s = some (r, t)) : runToResponse (n + m) s = some (r, t) := by
  induction n generalizing s with
  | zero => simp [runToResponse] at h
  | succ n ih =>
    rw [Nat.succ_add]
    match hc : runCommand s with
    | .next u =>
      rw [runToResponse_succ hc] at h ⊢
      match hp : u.phase with
      | .responding q => simpa [hp] using h
      | .executing =>
        simp only [hp] at h ⊢
        exact ih h
      | .idle => simp [hp] at h
    | .fault e => simp [runToResponse, hc] at h
    | .refused e => simp [runToResponse, hc] at h

/-- A command has one response. -/
theorem State.respondsWith_unique {s t u : State} {q r : Response} (ht : s.respondsWith q t)
    (hu : s.respondsWith r u) : q = r ∧ t = u := by
  obtain ⟨m, hm⟩ := ht
  obtain ⟨n, hn⟩ := hu
  have h1 := runToResponse_add n hm
  have h2 := runToResponse_add m hn
  rw [Nat.add_comm n m, h1] at h2
  simpa using h2

end Sys2Proof.Machine
end

