-- ==== Sys2Proof/Laws/PerInstr.lean ====
section
/-! SUPPORT. Statements made per instruction: one lemma for each constructor of `Instr`. -/

namespace Sys2Proof.Laws

/-- The word of a command is legal by the fields of 30_encoding.md R66, whatever its selectors. -/
def EncodesLegal.Statement (i : Instr) : Prop :=
  (CommandFields.ofWord (encode i)).wellFormed = true

theorem EncodesLegal.init32 : EncodesLegal.Statement .init32 := by
  unfold EncodesLegal.Statement
  decide

theorem EncodesLegal.init64 : EncodesLegal.Statement .init64 := by
  unfold EncodesLegal.Statement
  decide

theorem EncodesLegal.initd32 : EncodesLegal.Statement .initd32 := by
  unfold EncodesLegal.Statement
  decide

theorem EncodesLegal.initd64 : EncodesLegal.Statement .initd64 := by
  unfold EncodesLegal.Statement
  decide

theorem EncodesLegal.seed32 : EncodesLegal.Statement .seed32 := by
  unfold EncodesLegal.Statement
  decide

theorem EncodesLegal.seed64 : EncodesLegal.Statement .seed64 := by
  unfold EncodesLegal.Statement
  decide

theorem EncodesLegal.next32 : EncodesLegal.Statement .next32 := by
  unfold EncodesLegal.Statement
  decide

theorem EncodesLegal.next64 : EncodesLegal.Statement .next64 := by
  unfold EncodesLegal.Statement
  decide

theorem EncodesLegal.discard32 : EncodesLegal.Statement .discard32 := by
  unfold EncodesLegal.Statement
  decide

theorem EncodesLegal.discard64 : EncodesLegal.Statement .discard64 := by
  unfold EncodesLegal.Statement
  decide

theorem EncodesLegal.getmin (g : Gen) : EncodesLegal.Statement (.getmin g) := by
  unfold EncodesLegal.Statement
  cases g <;> decide

theorem EncodesLegal.getmax (g : Gen) : EncodesLegal.Statement (.getmax g) := by
  unfold EncodesLegal.Statement
  cases g <;> decide

theorem EncodesLegal.uint (g : Gen) : EncodesLegal.Statement (.uint g) := by
  unfold EncodesLegal.Statement
  cases g <;> decide

theorem EncodesLegal.uintn (g : Gen) : EncodesLegal.Statement (.uintn g) := by
  unfold EncodesLegal.Statement
  cases g <;> decide

theorem EncodesLegal.real (g : Gen) (f : Fmt) : EncodesLegal.Statement (.real g f) := by
  unfold EncodesLegal.Statement
  cases g <;> cases f <;> decide

theorem EncodesLegal.realn (g : Gen) (f : Fmt) : EncodesLegal.Statement (.realn g f) := by
  unfold EncodesLegal.Statement
  cases g <;> cases f <;> decide

theorem EncodesLegal.real2 (g : Gen) (f : Fmt) : EncodesLegal.Statement (.real2 g f) := by
  unfold EncodesLegal.Statement
  cases g <;> cases f <;> decide

theorem EncodesLegal.realn2 (g : Gen) (f : Fmt) : EncodesLegal.Statement (.realn2 g f) := by
  unfold EncodesLegal.Statement
  cases g <;> cases f <;> decide

theorem EncodesLegal.disk (g : Gen) (f : Fmt) : EncodesLegal.Statement (.disk g f) := by
  unfold EncodesLegal.Statement
  cases g <;> cases f <;> decide

theorem EncodesLegal.gauss (g : Gen) (f : Fmt) : EncodesLegal.Statement (.gauss g f) := by
  unfold EncodesLegal.Statement
  cases g <;> cases f <;> decide

theorem EncodesLegal.gaussr (g : Gen) (f : Fmt) : EncodesLegal.Statement (.gaussr g f) := by
  unfold EncodesLegal.Statement
  cases g <;> cases f <;> decide

theorem EncodesLegal.expo (g : Gen) (f : Fmt) : EncodesLegal.Statement (.expo g f) := by
  unfold EncodesLegal.Statement
  cases g <;> cases f <;> decide

theorem EncodesLegal.expor (g : Gen) (f : Fmt) : EncodesLegal.Statement (.expor g f) := by
  unfold EncodesLegal.Statement
  cases g <;> cases f <;> decide

end Sys2Proof.Laws
end

