-- ==== Sys2Proof/Laws/Xorshift.lean ====
section
/-! SUPPORT. What one step, several steps and a write of one word do to the two generators. -/

namespace Sys2Proof.Machine

/-! ### Words of the array -/

@[simp] theorem G64.setWord_p (g : G64) (i : Index) (v : Word64) : (g.setWord i v).p = g.p := rfl

@[simp] theorem G64.word_setWord_same (g : G64) (i : Index) (v : Word64) :
    (g.setWord i v).word i = v := by
  simp [G64.word, G64.setWord]

theorem G64.word_setWord (g : G64) (i j : Index) (v : Word64) :
    (g.setWord i v).word j = if j = i then v else g.word j := by
  unfold G64.word G64.setWord
  by_cases h : j = i
  · simp [h]
  · have : ¬ i.toNat = j.toNat := fun e => h (BitVec.eq_of_toNat_eq e).symm
    simp [h, this]

/-- Two states of `xorshift_prng_64` are equal when their indices and all their words are. -/
theorem G64.ext_words {g h : G64} (hp : g.p = h.p) (hw : ∀ i, g.word i = h.word i) : g = h := by
  obtain ⟨p, s⟩ := g
  obtain ⟨q, t⟩ := h
  simp only at hp
  subst hp
  congr 1
  refine Vector.ext fun i hi => ?_
  have := hw (BitVec.ofNat 4 i)
  simpa [G64.word, Nat.mod_eq_of_lt hi] using this

/-! ### One step -/

@[simp] theorem G64.step_p (g : G64) : g.step.p = nextIndex g.p := rfl

/-- The word at the new index after a step (40_bit_generators.md R91). -/
theorem G64.step_word_next (g : G64) :
    g.step.word (nextIndex g.p) = mixFirst (g.word g.p) ^^^ mixMoved (g.word (nextIndex g.p)) := by
  simp [G64.step, G64.word, G64.setWord]

/-- A step writes no word but the one at the new index (40_bit_generators.md R97). -/
theorem G64.step_word_other (g : G64) {i : Index} (h : i ≠ nextIndex g.p) :
    g.step.word i = g.word i := by
  have := G64.word_setWord g (nextIndex g.p) i
    (mixFirst (g.word g.p) ^^^ mixMoved (g.word (nextIndex g.p)))
  rw [if_neg h] at this
  exact this

/-- The output of a step from the words it reads (40_bit_generators.md R91). -/
theorem G64.out_eq (g : G64) :
    g.out = (mixFirst (g.word g.p) ^^^ mixMoved (g.word (nextIndex g.p))) * mult64 := by
  rw [G64.out, G64.step_p, G64.step_word_next]

/-! ### Several steps -/

theorem G32.steps_succ (n : Nat) (g : G32) : G32.steps (n + 1) g = G32.steps n g.step := rfl

theorem G64.steps_succ (n : Nat) (g : G64) : G64.steps (n + 1) g = G64.steps n g.step := rfl

theorem G32.steps_add (m n : Nat) (g : G32) :
    G32.steps (m + n) g = G32.steps n (G32.steps m g) := by
  induction m generalizing g with
  | zero => simp [G32.steps]
  | succ m ih => rw [Nat.succ_add, G32.steps_succ, ih, G32.steps_succ]

theorem G64.steps_add (m n : Nat) (g : G64) :
    G64.steps (m + n) g = G64.steps n (G64.steps m g) := by
  induction m generalizing g with
  | zero => simp [G64.steps]
  | succ m ih => rw [Nat.succ_add, G64.steps_succ, ih, G64.steps_succ]

/-- Several steps are the iterate of one (40_bit_generators.md R85). -/
theorem G32.steps_eq_iterate (n : Nat) (g : G32) : G32.steps n g = G32.step^[n] g := by
  induction n generalizing g with
  | zero => rfl
  | succ n ih => rw [G32.steps_succ, ih, Function.iterate_succ_apply]

/-- Several steps are the iterate of one (40_bit_generators.md R95). -/
theorem G64.steps_eq_iterate (n : Nat) (g : G64) : G64.steps n g = G64.step^[n] g := by
  induction n generalizing g with
  | zero => rfl
  | succ n ih => rw [G64.steps_succ, ih, Function.iterate_succ_apply]

/-- The warm-up count as a remainder (40_bit_generators.md R92). -/
theorem warmUpCount_eq (seed : Word64) : warmUpCount seed = seed.toNat % 256 := by
  unfold warmUpCount
  rw [BitVec.toNat_and]
  exact Nat.and_two_pow_sub_one_eq_mod seed.toNat 8

end Sys2Proof.Machine
end

