-- ==== Sys2Proof/Tests/Slice0.lean ====
section
/-! SUPPORT. Tests: ill-formed words, decoded words, the vectors of 95_test_vectors.md one step at a
time, and states that meet the hypotheses of the obligations. Expected values come from the spec;
each test names where. -/

namespace Sys2Proof.Tests

open Machine

set_option Elab.async false

/-! ### Helpers -/

/-- The response a step leaves waiting. -/
def responseOf : Host.Outcome State Fault Refusal → Option Response
  | .next t => t.rspPort
  | .fault _ | .refused _ => none

/-- `xorshift_prng_32` after a step. -/
def g32Of : Host.Outcome State Fault Refusal → Option G32
  | .next t => some t.g32
  | .fault _ | .refused _ => none

/-- The phase, the commands left and the statuses received after a run. -/
def settledOf : Host.Outcome State Fault Refusal → Option (Phase × List Command × List Status)
  | .next t => some (t.phase, t.commands, t.received.map Response.status)
  | .fault _ | .refused _ => none

/-- `xorshift_prng_64` after a step. -/
def g64Of : Host.Outcome State Fault Refusal → Option G64
  | .next t => some t.g64
  | .fault _ | .refused _ => none

theorem next_of_g32Of {o : Host.Outcome State Fault Refusal} (h : (g32Of o).isSome = true) :
    ∃ t, o = .next t := by
  cases o with
  | next t => exact ⟨t, rfl⟩
  | _ => simp [g32Of] at h

/-- The state after reset with another operand. -/
def withArg (a : Word64) : State := { State.reset with arg := a }

/-- The state after reset with other generators. -/
def withGens (g : G32) (h : G64) : State := { State.reset with g32 := g, g64 := h }

/-- An array of zeros but for words 0, 1 and 2. -/
def sparse (p : Index) (a b c : Word64) : G64 :=
  { p := p, s := #v[a, b, c, 0, 0, 0, 0, 0, 0, 0, 0, 0, 0, 0, 0, 0] }

/-- A command word from its fields, most significant first (30_encoding.md R59). -/
def word (rsv : BitVec 22) (fsel gsel : BitVec 1) (opcode : BitVec 8) : Word32 :=
  rsv ++ fsel ++ gsel ++ opcode

/-! ### Ill-formed words, one for each check of WellFormed.lean (30_encoding.md R66) -/

theorem test_wf_reserved_refused :
    let c : CommandFields := ⟨1, 0, 0, 0x04⟩
    c.reservedClear = false ∧ c.wellFormed = false := by decide

theorem test_wf_opcode_refused :
    let c : CommandFields := ⟨0, 0, 0, 0x08⟩
    c.opcodeAssigned = false ∧ c.wellFormed = false := by decide

theorem test_wf_fsel_refused :
    let c : CommandFields := ⟨0, 1, 0, 0x04⟩
    c.fselAllowed = false ∧ c.wellFormed = false := by decide

theorem test_wf_accepted :
    (⟨0, 0, 1, 0x04⟩ : CommandFields).wellFormed = true ∧
      (⟨0, 1, 1, 0x34⟩ : CommandFields).wellFormed = true := by decide

/-! ### Words written out field by field from 30_encoding.md R59 and R60 -/

theorem test_decode_generator_family :
    decode (word 0 0b0 0b0 0b00000001) = .ok .init32 ∧
    decode (word 0 0b0 0b1 0b00000001) = .ok .init64 ∧
    decode (word 0 0b0 0b0 0b00000010) = .ok .initd32 ∧
    decode (word 0 0b0 0b1 0b00000010) = .ok .initd64 ∧
    decode (word 0 0b0 0b0 0b00000011) = .ok .seed32 ∧
    decode (word 0 0b0 0b1 0b00000011) = .ok .seed64 ∧
    decode (word 0 0b0 0b0 0b00000100) = .ok .next32 ∧
    decode (word 0 0b0 0b1 0b00000100) = .ok .next64 ∧
    decode (word 0 0b0 0b0 0b00000101) = .ok .discard32 ∧
    decode (word 0 0b0 0b1 0b00000101) = .ok .discard64 ∧
    decode (word 0 0b0 0b0 0b00000110) = .ok (.getmin .g32) ∧
    decode (word 0 0b0 0b1 0b00000111) = .ok (.getmax .g64) := by decide +kernel

theorem test_decode_samplers :
    decode (word 0 0b0 0b1 0b00010000) = .ok (.uint .g64) ∧
    decode (word 0 0b0 0b0 0b00010001) = .ok (.uintn .g32) ∧
    decode (word 0 0b0 0b1 0b00100000) = .ok (.real .g64 .b32) ∧
    decode (word 0 0b1 0b0 0b00100001) = .ok (.realn .g32 .b64) ∧
    decode (word 0 0b1 0b1 0b00100010) = .ok (.real2 .g64 .b64) ∧
    decode (word 0 0b0 0b0 0b00100011) = .ok (.realn2 .g32 .b32) ∧
    decode (word 0 0b0 0b1 0b00110000) = .ok (.disk .g64 .b32) ∧
    decode (word 0 0b1 0b0 0b00110001) = .ok (.gauss .g32 .b64) ∧
    decode (word 0 0b1 0b1 0b00110010) = .ok (.gaussr .g64 .b64) ∧
    decode (word 0 0b0 0b0 0b00110011) = .ok (.expo .g32 .b32) ∧
    decode (word 0 0b1 0b0 0b00110100) = .ok (.expor .g32 .b64) := by decide +kernel

/-- V-ENC-2. -/
theorem test_decode_illegal :
    decode 0x00000000 = .error .opcodeUnassigned ∧ decode 0x00000012 = .error .opcodeUnassigned ∧
    decode 0x00000024 = .error .opcodeUnassigned ∧ decode 0x00000335 = .error .opcodeUnassigned ∧
    decode 0x00000204 = .error .fselNotUsed ∧ decode 0x00000310 = .error .fselNotUsed ∧
    decode 0x00000404 = .error .reservedBitSet ∧ decode 0x80000004 = .error .reservedBitSet := by
  decide +kernel

/-- The instruction a placed word runs is the one it decodes to (30_encoding.md R56, R60). -/
theorem test_fetched_word_runs :
    decodeTableWord 32 0x104 = some .next64 ∧
      (responseOf (step (State.reset.withFetchWord 32 0x104))).map Response.res0 =
        some 0x7D7784C1452452F9 := by decide +kernel

/-! ### The generator family (V-G32, V-G64) -/

/-- V-G32-1 and V-ENC-3. -/
theorem test_init32 : g32Of (exec .init32 (withArg 0xDEADBEEF0000002A)) =
    some ⟨0x0000002A, 0x159A55E5, 0x1F123BB5, 0x05491333⟩ := by decide +kernel

/-- V-G64-3. -/
theorem test_init64 : (g64Of (exec .init64 (withArg 42))).map
    (fun g => (g.p, g.word 0, g.word 4, g.word 15)) =
    some (4, 0x0140280000005420, 0x014028500A8114AA, 0x0000001502A0007E) := by decide +kernel

/-- V-G32-2, V-RS-2. -/
theorem test_initd32 : g32Of (exec .initd32 (withArg 7)) =
    some ⟨0x075BCD15, 0x159A55E5, 0x1F123BB5, 0x05491333⟩ := by decide +kernel

/-- V-RS-1, V-RS-2. -/
theorem test_initd64 : (g64Of (exec .initd64 (withArg 7))).map
    (fun g => (g.p, g.word 10, g.word 9, g.word 11)) =
    some (10, 0x03AD9336560B266C, 0x03AD933658BD6AB5, 0) := by decide +kernel

/-- V-G32-5. -/
theorem test_seed32 :
    let s := withGens ⟨0x4CFB4EA0, 0x01661C87, 0x467E0109, 0x54806795⟩ State.reset.g64
    g32Of (exec .seed32 { s with arg := 42 }) =
      some ⟨0x0000002A, 0x01661C87, 0x467E0109, 0x54806795⟩ := by decide +kernel

/-- V-G64-5: word 0, at index 10. -/
theorem test_seed64 : (g64Of (exec .seed64 (withArg 0xDEADBEEF))).map
    (fun g => (g.p, g.word 0, g.word 10)) =
    some (10, 0x00000000DEADBEEF, 0x03AD9336560B266C) := by decide +kernel

/-- V-G32-1, the hand computation of S8-7. -/
theorem test_next32 :
    let s := withGens ⟨0x0000002A, 0x159A55E5, 0x1F123BB5, 0x05491333⟩ State.reset.g64
    responseOf (exec .next32 s) = some ⟨.ok, 0x054842E0, 0, 0⟩ ∧
      g32Of (exec .next32 s) = some ⟨0x159A55E5, 0x1F123BB5, 0x05491333, 0x054842E0⟩ := by
  decide +kernel

/-- V-G32-6: the width of `t`. -/
theorem test_next32_width :
    responseOf (exec .next32 (withGens ⟨0x00200000, 0, 0, 0⟩ State.reset.g64)) =
      some ⟨.ok, 0x00202000, 0, 0⟩ := by decide +kernel

/-- V-G64-1, rows 1 and 3. -/
theorem test_next64 :
    (responseOf (exec .next64 (withGens State.reset.g32 (sparse 0 1 0 0)))).map Response.res0 =
      some 0x106689D45497FDB5 ∧
    (responseOf (exec .next64 (withGens State.reset.g32 (sparse 0 0 1 0)))).map Response.res0 =
      some 0xD7F7D22EAFE7FDB5 := by decide +kernel

/-- V-G64-1, row 2: the index wraps. -/
theorem test_next64_wraps :
    (g64Of (exec .next64 (withGens State.reset.g32 (sparse 15 1 0 0)))).map
      (fun g => (g.p, g.word 0)) = some (0, 0x0000000080100001) := by decide +kernel

/-- V-G32-7. -/
theorem test_discard32 : g32Of (exec .discard32 (withArg 10)) =
    some ⟨0x9AF81443, 0x2AC00F2C, 0x0837AD58, 0x17906569⟩ := by decide +kernel

/-- V-G64-7. -/
theorem test_discard64 : (g64Of (exec .discard64 (withArg 5))).map (fun g => (g.p, g.out)) =
    some (15, 0xE61E7AD58AB68FB4) := by decide +kernel

/-- V-G32-8, V-G64-7. -/
theorem test_getmin : responseOf (exec (.getmin .g32) State.reset) = some ⟨.ok, 0, 0, 0⟩ ∧
    responseOf (exec (.getmin .g64) State.reset) = some ⟨.ok, 0, 0, 0⟩ := by decide +kernel

/-- V-G32-8, V-G64-7. -/
theorem test_getmax :
    responseOf (exec (.getmax .g32) State.reset) = some ⟨.ok, 0x00000000FFFFFFFF, 0, 0⟩ ∧
    responseOf (exec (.getmax .g64) State.reset) = some ⟨.ok, 0xFFFFFFFFFFFFFFFF, 0, 0⟩ := by
  decide +kernel

/-! ### Bounded integers (V-UI) -/

/-- V-UI-1: an output that is the maximum gives 0. -/
theorem test_uint :
    responseOf (exec (.uint .g32) State.reset) = some ⟨.ok, 0xDCA345EA, 0, 0⟩ ∧
    responseOf (exec (.uint .g32) (withGens ⟨0, 0, 0, 0xFFFFE000⟩ State.reset.g64)) =
      some ⟨.ok, 0, 0, 0⟩ := by decide +kernel

/-- V-UI-2, rows 1 and 6. -/
theorem test_uintn :
    responseOf (exec (.uintn .g32) (withArg 10)) = some ⟨.ok, 6, 0, 0⟩ ∧
    responseOf (exec (.uintn .g64) (withArg 10)) = some ⟨.ok, 5, 0, 0⟩ ∧
    responseOf (exec (.uintn .g32) (withArg 0x100000001)) = some ⟨.ok, 0, 0, 0⟩ := by
  decide +kernel

/-- V-UI-3 and V-ENC-3: no step is made. -/
theorem test_uintn_zero :
    responseOf (exec (.uintn .g32) (withArg 0x100000000)) = some ⟨.divideByZero, 0, 0, 0⟩ ∧
    g32Of (exec (.uintn .g32) (withArg 0x100000000)) = some State.reset.g32 := by decide +kernel

/-! ### Floating point and the unit reals (V-FP) -/

/-- V-FP-10. -/
theorem test_constants :
    (fmax .g32 .b32).pack .b32 0 = 0x4F800000 ∧
    (fmax .g32 .b64).pack .b64 0 = 0x41EFFFFFFFE00000 ∧
    (fmax .g64 .b32).pack .b32 0 = 0x5F800000 ∧
    (fmax .g64 .b64).pack .b64 0 = 0x43F0000000000000 ∧
    (Fp.minusTwo .b64).pack .b64 0 = 0xC000000000000000 := by decide +kernel

/-- V-FP-1 to V-FP-4, on both sides of each threshold. -/
theorem test_unorm_thresholds :
    (unorm .g32 .b32 0xFFFFFF7F).pack .b32 0 = 0x3F7FFFFF ∧
    (unorm .g32 .b32 0xFFFFFF80).pack .b32 0 = 0x3F800000 ∧
    (unorm .g32 .b64 0xFFFFFFFE).pack .b64 0 = 0x3FEFFFFFFFE00000 ∧
    (unorm .g32 .b64 0xFFFFFFFF).pack .b64 0 = 0x3FF0000000000000 ∧
    (unorm .g64 .b32 0xFFFFFF7FFFFFFFFF).pack .b32 0 = 0x3F7FFFFF ∧
    (unorm .g64 .b32 0xFFFFFF8000000000).pack .b32 0 = 0x3F800000 ∧
    (unorm .g64 .b64 0xFFFFFFFFFFFFFBFF).pack .b64 0 = 0x3FEFFFFFFFFFFFFF ∧
    (unorm .g64 .b64 0xFFFFFFFFFFFFFC00).pack .b64 0 = 0x3FF0000000000000 := by decide +kernel

/-- V-FP-5 to V-FP-8, on both sides of each end point. -/
theorem test_snorm_end_points :
    (snorm .g32 .b32 0x7FFFFFBF).pack .b32 0 = 0x3F7FFFFF ∧
    (snorm .g32 .b32 0x7FFFFFC0).pack .b32 0 = 0x3F800000 ∧
    (snorm .g32 .b32 0x80000040).pack .b32 0 = 0xBF800000 ∧
    (snorm .g32 .b32 0x80000041).pack .b32 0 = 0xBF7FFFFF ∧
    (snorm .g32 .b64 0x7FFFFFFF).pack .b64 0 = 0x3FEFFFFFFFE00000 ∧
    (snorm .g32 .b64 0x80000000).pack .b64 0 = 0xBFF0000000100000 ∧
    (snorm .g32 .b64 0x80000001).pack .b64 0 = 0xBFEFFFFFFFE00000 ∧
    (snorm .g64 .b32 0x7FFFFFBFFFFFFFFF).pack .b32 0 = 0x3F7FFFFF ∧
    (snorm .g64 .b32 0x7FFFFFC000000000).pack .b32 0 = 0x3F800000 ∧
    (snorm .g64 .b32 0x8000004000000000).pack .b32 0 = 0xBF800000 ∧
    (snorm .g64 .b32 0x8000004000000001).pack .b32 0 = 0xBF7FFFFF ∧
    (snorm .g64 .b64 0x7FFFFFFFFFFFFDFF).pack .b64 0 = 0x3FEFFFFFFFFFFFFF ∧
    (snorm .g64 .b64 0x7FFFFFFFFFFFFE00).pack .b64 0 = 0x3FF0000000000000 ∧
    (snorm .g64 .b64 0x8000000000000200).pack .b64 0 = 0xBFF0000000000000 ∧
    (snorm .g64 .b64 0x8000000000000201).pack .b64 0 = 0xBFEFFFFFFFFFFFFF := by decide +kernel

/-- V-FP-9. -/
theorem test_real :
    responseOf (exec (.real .g32 .b32) State.reset) = some ⟨.ok, 0x3F5CA346, 0, 0⟩ ∧
    responseOf (exec (.real .g64 .b64) State.reset) = some ⟨.ok, 0x3FDF5DE130514915, 0, 0⟩ := by
  decide +kernel

/-- V-FP-9. -/
theorem test_realn :
    responseOf (exec (.realn .g32 .b64) State.reset) = some ⟨.ok, 0xBFD1AE5D0B11AE5D, 0, 0⟩ ∧
    responseOf (exec (.realn .g64 .b32) State.reset) = some ⟨.ok, 0x3F7AEF0A, 0, 0⟩ := by
  decide +kernel

/-- V-FP-9. -/
theorem test_real2 :
    responseOf (exec (.real2 .g32 .b32) State.reset) = some ⟨.ok, 0x3FDCA346, 0, 0⟩ ∧
    responseOf (exec (.real2 .g32 .b64) State.reset) = some ⟨.ok, 0x3FFB9468BD5B9469, 0, 0⟩ := by
  decide +kernel

/-- V-FP-9. -/
theorem test_realn2 :
    responseOf (exec (.realn2 .g32 .b32) State.reset) = some ⟨.ok, 0xBF0D72E8, 0, 0⟩ ∧
    responseOf (exec (.realn2 .g32 .b64) State.reset) = some ⟨.ok, 0xBFE1AE5D0B11AE5D, 0, 0⟩ := by
  decide +kernel

/-! ### The two-dimensional sampler (V-DK, V-GA) -/

/-- V-DK-1. -/
theorem test_disk : responseOf (exec (.disk .g64 .b32) State.reset) =
    some ⟨.ok, 0x3F7AEF0A, 0x3E2A8E79, 0x3F7D11D8⟩ := by decide +kernel

/-- V-DK-2: a rejected iteration first. -/
theorem test_disk_rejects :
    let s := withGens ⟨0x9AF81443, 0x2AC00F2C, 0x0837AD58, 0x17906569⟩ State.reset.g64
    responseOf (exec (.disk .g32 .b64) s) =
      some ⟨.ok, 0xBFD68A1688168A17, 0x3FE1B117BA51B118, 0x3FDB8013F7CD66BA⟩ ∧
    g32Of (exec (.disk .g32 .b64) s) =
      some ⟨0x4D9031D4, 0x6703EE25, 0xD2EBD2F0, 0x46C45EE9⟩ := by decide +kernel

/-- V-GA-3, the row of 0.75, and V-GA-1, first row, from the logarithm on. -/
theorem test_gauss_factor :
    (gaussFactorOf .b32 (.unpack .b32 0xBE934B11) (.unpack .b32 0x3F400000)).pack .b32 0 =
      0x3F60392A ∧
    (Fp.mul .b32 (.unpack .b32 0xBE8D72E8) (gaussFactorOf .b32 (.unpack .b32 0xC006B545)
      (.unpack .b32 0x3DF9961E))).pack .b32 0 = 0xBFCFD568 := by decide +kernel

/-- V-GA-3, the row of 0.75, and V-GA-1, third row, from the logarithm on. -/
theorem test_expo_factor :
    (expoFactorOf .b64 (.unpack .b64 0xBFD269621134DB92) (.unpack .b64 0x3FE8000000000000)).pack
      .b64 0 = 0x3FD88C82C19BCF6D ∧
    (Fp.mul .b64 (.unpack .b64 0xBFD1AE5D0B11AE5D) (expoFactorOf .b64
      (.unpack .b64 0xC000D6A8991AB2C1) (.unpack .b64 0x3FBF32C3F17916CA))).pack .b64 0 =
      0xC01315FC209B3ED1 := by decide +kernel

/-- V-GA-2, first row, from the plain result on: the radius is a multiplication of its own. -/
theorem test_scaled_results :
    (Fp.mul .b32 (.unpack .b32 0xBFCFD568) (.unpack .b32 0x40200000)).pack .b32 0 = 0xC081E561 ∧
    (Fp.mul .b32 (.unpack .b32 0xC098AFE1) (.unpack .b32 0x40200000)).pack .b32 0 =
      0xC13EDBD9 := by decide +kernel

/-- V-GA-3: the logarithms of 0.5 and of `1 - 2^(-24)` are among the two values offered. -/
theorem test_ln_neighbours :
    (0xBF317218 : Word64) ∈ [(lnBelow .b32 1 (-1)).pack .b32 0, (lnAbove .b32 1 (-1)).pack .b32 0] ∧
    (0xB3800000 : Word64) ∈ [(lnBelow .b32 (2 ^ 24 - 1) (-24)).pack .b32 0,
      (lnAbove .b32 (2 ^ 24 - 1) (-24)).pack .b32 0] := by decide +kernel

/-- V-GA-5: the quotient overflows, and zero times infinity is a NaN. -/
theorem test_factor_overflow :
    expoFactorOf .b32 (.unpack .b32 0xC2AEAC50) (.unpack .b32 0x00800000) = .inf false ∧
    Fp.mul .b32 (.zero .b32 false) (.inf false) = .nan := by decide +kernel

/-- V-DK-4, V-EX-1: the transforms fault where `DISK` does not, and the draws stay made. -/
theorem test_transforms_at_zero :
    let s := withGens State.reset.g32 (sparse 0 0 0 0)
    responseOf (exec (.disk .g64 .b64) s) = some ⟨.ok, 0, 0, 0⟩ ∧
    responseOf (exec (.gauss .g64 .b32) s) = some ⟨.domainError, 0, 0, 0⟩ ∧
    responseOf (exec (.gaussr .g64 .b64) s) = some ⟨.domainError, 0, 0, 0⟩ ∧
    responseOf (exec (.expo .g64 .b64) s) = some ⟨.domainError, 0, 0, 0⟩ ∧
    responseOf (exec (.expor .g64 .b32) s) = some ⟨.domainError, 0, 0, 0⟩ ∧
    (g64Of (exec (.gauss .g64 .b32) s)).map G64.p = some 2 := by decide +kernel

/-! ### Faults and handshakes (V-EX) -/

/-- V-EX-3: an illegal word is reported before its operand is looked at. -/
theorem test_illegal_first :
    responseOf (step (State.reset.withFetchWord 32 0x211)) = some ⟨.illegalCommand, 0, 0, 0⟩ := by
  decide +kernel

/-- V-EX-2: the command after a fault executes normally. -/
theorem test_fault_not_sticky :
    (match run 3 (State.reset.present [⟨0x00000008, 0⟩, ⟨0x00000004, 0⟩]) with
      | .next t => t.rspPort.map Response.res0
      | .fault _ | .refused _ => none) = some 0x00000000DCA345EA := by decide +kernel

/-! ### States that meet the hypotheses of the obligations -/

/-- `G32` at the boundary point: it draws `0x80000000`, then 0 (V-GA-4). -/
def boundary32 : G32 := ⟨0xA4848080, 0xA0041090, 0, 0⟩

/-- `G64` at the boundary point: it draws `0x8000000000000000`, then 0 (V-GA-4). -/
def boundary64 : G64 := sparse 0 0x8000000200000008 0 0xE0340682C0480901

/-- `G32` where sixteen iterations reject: all 32 draws have the top bits 011. -/
def rejecting32 : G32 := ⟨0x90000000, 0xFC5E3A70, 0x0BE30672, 0xE0DE55FF⟩

/-- The machine with `DISK.32.s` in the block and sixteen rejections ahead. -/
def busy : State :=
  { State.reset with g32 := rejecting32, phase := .executing, cmd := 0x00000030 }

theorem test_witness_step_runs_decoded :
    let s := State.reset.present [⟨0x00000004, 5⟩]
    (s.live ∧ s.phase = .idle ∧ s.commands = [⟨0x00000004, 5⟩] ∧
      decode 0x00000004 = .ok .next32) ∧
    busy.live ∧ busy.phase = .executing ∧ decode busy.cmd = .ok (.disk .g32 .b32) := by
  unfold State.live; decide +kernel

theorem test_witness_illegal_words :
    let r := State.reset.present [⟨0x00000404, 0⟩]
    let o := State.reset.present [⟨0x00000008, 0⟩]
    let f := State.reset.present [⟨0x00000204, 0⟩]
    (r.live ∧ r.phase = .idle ∧ (0x00000404 : Word32).extractLsb' 10 22 ≠ 0) ∧
    (o.live ∧ o.phase = .idle ∧
      (0x00000008 : Word32).extractLsb' 0 8 ∉ plainOpcodes ++ floatOpcodes) ∧
    f.live ∧ f.phase = .idle ∧ (0x00000204 : Word32).extractLsb' 0 8 ∈ plainOpcodes ∧
      (0x00000204 : Word32).extractLsb' 9 1 = 1 := by
  unfold State.live; decide +kernel

theorem test_witness_response_held :
    let s : State := { State.reset with phase := .responding ⟨.ok, 1, 0, 0⟩ }
    s.live ∧ s.phase = .responding ⟨.ok, 1, 0, 0⟩ ∧ s.rspReady = true ∧
      (s.driveRspReady false).live ∧ (s.driveRspReady false).rspReady = false := by
  unfold State.live; decide +kernel

theorem test_witness_reset_wins : (busy.driveRst true).rst = true ∧
    (busy.driveRst true).phase = .executing := by decide +kernel

theorem test_witness_never_stops : busy.resetSeen = true := by decide

theorem test_witness_before_reset :
    let s : State := { State.reset with resetSeen := false }
    (s.resetSeen = false ∧ s.rst = false ∧ s.commands = []) ∧
      (s.present [⟨4, 0⟩]).resetSeen = false ∧ (s.present [⟨4, 0⟩]).rst = false ∧
      (s.present [⟨4, 0⟩]).commands ≠ [] := by decide +kernel

/-- The invariant holds with a command on the port, with a response waiting, and of a busy block. -/
theorem test_witness_inv :
    (portWord 0x00000004 State.reset).Inv ∧ busy.Inv ∧
      ({ State.reset with cmd := 8, phase := .responding ⟨.illegalCommand, 0, 0, 0⟩ } : State).Inv :=
  ⟨⟨by simp, by simp, by simp [portWord, State.reset]⟩,
    ⟨by simp [busy], fun _ => ⟨.disk .g32 .b32, by decide +kernel, rfl⟩, by simp [busy, State.reset]⟩,
    ⟨fun r hr => by
      simp only [Phase.responding.injEq] at hr
      subst hr
      exact ⟨fun _ => ⟨rfl, rfl, rfl⟩, by
        rw [show decode 8 = .error .opcodeUnassigned by decide +kernel]⟩,
      by simp, by simp [State.reset]⟩⟩

theorem test_witness_inv_steps :
    (∃ t, step (portWord 0x00000004 State.reset) = .next t) ∧ ∃ t, step busy = .next t :=
  ⟨⟨_, rfl⟩, next_of_g32Of (by decide +kernel)⟩

/-- `DISK.32.s` that accepts only after a whole burst, then an illegal word: a run of five transitions
reaches an idle block with both responses taken. -/
theorem test_witness_fold :
    let s := State.reset.present [⟨0x00000030, 0⟩, ⟨0x00000204, 0⟩]
    let d : State := { s with g32 := rejecting32 }
    d.live ∧ d.phase = .idle ∧ d.rspReady = true ∧
      settledOf (run 5 d) = some (.idle, [], [.ok, .illegalCommand]) := by
  unfold State.live; decide +kernel

/-- The command in the block responds in its second burst and not in its first. -/
theorem test_run_to_response :
    runToResponse 1 busy = none ∧ (runToResponse 2 busy).isSome = true := by decide +kernel

theorem test_witness_isolation :
    Instr.next32.gen = .g32 ∧ (∃ t, exec .next32 State.reset = .next t) ∧
      Instr.next64.gen = .g64 ∧ ∃ t, exec .next64 State.reset = .next t :=
  ⟨rfl, ⟨_, rfl⟩, rfl, ⟨_, rfl⟩⟩

theorem test_witness_same_operand :
    sameOperand .init32 (withArg 42).arg 0xDEADBEEF0000002A ∧
      ∃ t, exec .init32 (withArg 42) = .next t := ⟨by unfold sameOperand; decide +kernel, _, rfl⟩

theorem test_witness_zero_array : ∀ i, (sparse 3 0 0 0).word i = 0 := by decide +kernel

/-- The index 4 of `INIT.64 42`, and both ends of the range of an index that is not 0 (V-G64-6). -/
theorem test_witness_reseed_late :
    ((G64.init 42).p ≠ 0 ∧ 10 + 1 < 16 - (G64.init 42).p.toNat) ∧
    ((sparse 1 0 0 0).p ≠ 0 ∧ 13 + 1 < 16 - (sparse 1 0 0 0).p.toNat) ∧
    ((sparse 14 0 0 0).p ≠ 0 ∧ 0 + 1 < 16 - (sparse 14 0 0 0).p.toNat) := by decide +kernel

theorem test_witness_zero_low_byte : (256 : Word64) &&& 255 = 0 ∧ (512 : Word64) &&& 255 = 0 := by
  decide

theorem test_witness_modulus :
    (withArg 0xFFFFFFFF00000001).arg.toNat % 2 ^ 32 ≠ 0 ∧
      (withArg 0xFFFFFFFF00000000).arg.toNat % 2 ^ 32 = 0 ∧ (withArg 1).arg.toNat ≠ 0 ∧
      (withArg 0).arg.toNat = 0 := by decide +kernel

/-- Operands for each clause about the arithmetic: 3/2 and -2, 0 and -2, and 2 and -2. -/
theorem test_witness_real_values :
    (Fp.fin false 3 (-1)).isReal (3 / 2) ∧ (Fp.fin true 1 1).isReal (-2) ∧
      (3 / 2 : ℝ) / -2 ≠ 0 ∧ (3 / 2 : ℝ) * -2 ≠ 0 ∧ (3 / 2 : ℝ) + -2 ≠ 0 ∧
      (Fp.fin false 0 0).isReal 0 ∧ (0 : ℝ) * -2 = 0 ∧
      (Fp.fin false 1 1).isReal 2 ∧ (2 : ℝ) + -2 = 0 :=
  ⟨⟨_, _, _, rfl, by norm_num⟩, ⟨_, _, _, rfl, by norm_num⟩, by norm_num, by norm_num,
    by norm_num, ⟨_, _, _, rfl, by norm_num⟩, by norm_num, ⟨_, _, _, rfl, by norm_num⟩,
    by norm_num⟩

/-- The encodings of `+0`, of `1.0`, of infinity and of a NaN, and the value `1.0`. -/
theorem test_witness_encodings :
    (0x7FC00000 : Word64).toNat < 2 ^ Fmt.b32.width ∧ Fp.unpack .b32 0x7FC00000 = .nan ∧
      Fp.unpack .b32 0x7F800000 = .inf false ∧ Fp.unpack .b32 0x3F800000 = .one .b32 ∧
      Fp.unpack .b32 0 = .zero .b32 false ∧ (Fp.one .b32).canonical .b32 :=
  ⟨by decide, by decide +kernel, by decide +kernel, by decide +kernel, by decide +kernel,
    by decide, by decide, by decide, by decide⟩

/-- One half and three quarters in binary32. -/
theorem test_witness_logarithm :
    (Fp.fin false (2 ^ 23) (-24)).canonical .b32 ∧ (Fp.fin false (2 ^ 23) (-24)).isReal (1 / 2) ∧
      (Fp.fin false (3 * 2 ^ 22) (-24)).canonical .b32 ∧
      (Fp.fin false (3 * 2 ^ 22) (-24)).isReal (3 / 4) ∧
      Fp.fin false (2 ^ 23) (-24) ≠ .one .b32 :=
  ⟨⟨by decide, by decide, by decide, by decide⟩, ⟨_, _, _, rfl, by norm_num⟩,
    ⟨by decide, by decide, by decide, by decide⟩, ⟨_, _, _, rfl, by norm_num⟩, by decide +kernel⟩

theorem test_witness_unorm_range :
    (0xFFFFFF7F : Word64).toNat ≤ (0xFFFFFF80 : Word64).toNat ∧
      (0xFFFFFF80 : Word64).toNat ≤ (genMax .g32).toNat ∧
      (0xFFFFFFFFFFFFFC00 : Word64).toNat ≤ (genMax .g64).toNat := by decide +kernel

theorem test_witness_snorm_range : (0x80000000 : Word64).toNat ≤ (genMax .g32).toNat ∧
    (0x8000000000000000 : Word64).toNat ≤ (genMax .g64).toNat := by decide +kernel

/-- V-DK-1: the first iteration after reset accepts, with a squared radius that is not zero, for
either generator in either format. -/
theorem test_witness_accepts : ∀ g ∈ [Gen.g32, .g64], ∀ F ∈ [Fmt.b32, .b64],
    State.reset.acceptsAfter g F 0 ∧ (State.reset.candidate g F).s.eq0 = false ∧
      (State.reset.candidate g F).accepted F = true := by
  unfold State.acceptsAfter; decide +kernel

/-- 43_disk_gaussian_sampler.md R164 (a) to (c): squared radii at, just above and far below the
boundary; and a NaN, which no comparison accepts (42_fp_conversion_and_reals.md R137). -/
theorem test_witness_acceptance_test :
    let c (F : Fmt) (s : Word64) : Candidate := ⟨.zero F false, .zero F false, .unpack F s⟩
    (c .b32 0x3F800000).s ≠ .inf true ∧ (c .b32 0x3F800000).accepted .b32 = true ∧
      (c .b32 0x3F800001).accepted .b32 = false ∧
      (c .b64 0x3FF0000000000000).accepted .b64 = true ∧
      (c .b64 0x3FF0000000000001).accepted .b64 = false ∧
      (c .b32 0).accepted .b32 = true ∧ (c .b32 0x7FC00000).accepted .b32 = false := by
  decide +kernel

/-- The last iteration of a burst accepts. -/
theorem test_witness_accepts_last :
    let s : State := busy.afterIteration .g32
    s.acceptsAfter .g32 .b32 15 ∧ 15 < Config.diskBurst ∧
      ((s.afterIterations .g32 15).candidate .g32 .b32).s.eq0 = false := by
  unfold State.acceptsAfter; decide +kernel

/-- The first iteration after a burst accepts. -/
theorem test_witness_accepts_beyond_burst :
    busy.live ∧ busy.phase = .executing ∧ decode busy.cmd = .ok (.disk .g32 .b32) ∧
      (Instr.disk .g32 .b32).samplesDisk = true ∧ (Instr.disk .g32 .b32).fmt = some .b32 ∧
      busy.acceptsAfter .g32 .b32 16 ∧
      ((busy.afterIterations .g32 16).candidate .g32 .b32).s.eq0 = false := by
  unfold State.live State.acceptsAfter; decide +kernel

theorem test_witness_rejects : busy.rejectsFor .g32 .b32 (1 * Config.diskBurst) := by
  unfold State.rejectsFor; decide +kernel

/-- V-DK-4: the accepted squared radius is zero. -/
theorem test_witness_domain_error :
    let s := withGens ⟨0, 0, 0, 0⟩ (sparse 0 0 0 0)
    s.acceptsAfter .g32 .b32 0 ∧ (s.candidate .g32 .b32).s.eq0 = true ∧
      s.acceptsAfter .g64 .b64 0 ∧ (s.candidate .g64 .b64).s.eq0 = true := by
  unfold State.acceptsAfter; decide +kernel

/-- V-GA-4, with the operand 0, which is a finite radius. -/
theorem test_witness_boundary_point :
    let s := withGens boundary32 boundary64
    (s.acceptsAfter .g32 .b32 0 ∧
      s.candidate .g32 .b32 = ⟨(Fp.one .b32).neg, .zero .b32 false, .one .b32⟩) ∧
    s.acceptsAfter .g64 .b64 0 ∧
      s.candidate .g64 .b64 = ⟨(Fp.one .b64).neg, .zero .b64 false, .one .b64⟩ := by
  unfold State.acceptsAfter; decide +kernel

theorem test_witness_unit_radius :
    Fp.unpack .b32 (withArg 0xFFFFFFFF3F800000).arg = .one .b32 ∧
      Fp.unpack .b64 (withArg 0x3FF0000000000000).arg = .one .b64 := by decide +kernel

theorem test_witness_nan_radius :
    let s := withArg 0x7FF8000000000000
    s.acceptsAfter .g64 .b64 0 ∧ (s.candidate .g64 .b64).s.eq0 = false ∧
      Fp.unpack .b64 s.arg = .nan := by
  unfold State.acceptsAfter; decide +kernel

end Sys2Proof.Tests
end

/-! # The generator a command does not select (10_state.md R24)

That a command does not read the other generator is the one thing proved about each command: with
other content there it does the same, and passes that content on. That it does not write it follows:
replacing the content by itself changes nothing, so the command passes the old content on. -/

namespace Sys2Proof.Machine

/-! ### Replacing the generator a command does not select -/

/-- `s` with the generator other than `g` taken from `o`. -/
def State.withOther (g : Gen) (s o : State) : State :=
  match g with
  | .g32 => { s with g64 := o.g64 }
  | .g64 => { s with g32 := o.g32 }

section
variable (g : Gen) (F : Fmt) (o s : State)

theorem State.withOther_g32 : s.withOther .g32 o = { s with g64 := o.g64 } := rfl

theorem State.withOther_g64 : s.withOther .g64 o = { s with g32 := o.g32 } := rfl

@[simp] theorem State.withOther_self : s.withOther g s = s := by cases g <;> rfl

/-! ### What is read of a state without its other generator -/

@[simp] theorem State.withOther_draws : (s.withOther g o).draws = s.draws := by cases g <;> rfl

@[simp] theorem State.withOther_stepOut : (s.withOther g o).stepOut g = s.stepOut g := by
  cases g <;> rfl

@[simp] theorem State.withOther_modulus : (s.withOther g o).modulus g = s.modulus g := by
  cases g <;> rfl

@[simp] theorem State.withOther_radius : (s.withOther g o).radius F = s.radius F := by
  cases g <;> rfl

@[simp] theorem State.withOther_genOut : (s.withOther g o).genOut g = s.genOut g := by
  simp [State.genOut]

/-! ### Updates that commute with the replacement -/

@[simp] theorem State.withOther_advance :
    (s.withOther g o).advance g = (s.advance g).withOther g o := by cases g <;> rfl

@[simp] theorem State.withOther_respond (r0 r1 r2 : Word64) :
    (s.withOther g o).respond r0 r1 r2 = (s.respond r0 r1 r2).withOther g o := by cases g <;> rfl

@[simp] theorem State.withOther_raise (e : Exception) :
    (s.withOther g o).raise e = (s.raise e).withOther g o := by cases g <;> rfl

@[simp] theorem State.withOther_respondReal (v : Fp) :
    (s.withOther g o).respondReal F v = (s.respondReal F v).withOther g o := by cases g <;> rfl

@[simp] theorem State.withOther_respondPair (v0 v1 : Fp) :
    (s.withOther g o).respondPair F v0 v1 = (s.respondPair F v0 v1).withOther g o := by
  cases g <;> rfl

@[simp] theorem State.withOther_respondTriple (v0 v1 v2 : Fp) :
    (s.withOther g o).respondTriple F v0 v1 v2 = (s.respondTriple F v0 v1 v2).withOther g o := by
  cases g <;> rfl

theorem State.withOther_phase (p : Phase) :
    ({ s.withOther g o with phase := p } : State) =
      ({ s with phase := p } : State).withOther g o := by
  cases g <;> rfl

@[simp] theorem boundedInteger_withOther (n : Word64) :
    boundedInteger g n (s.withOther g o) = (boundedInteger g n s).withOther g o := by
  simp [boundedInteger]

theorem finishPoint_withOther (factor : Fmt → Fp → Fp) (c : Candidate) :
    finishPoint F factor c (s.withOther g o) = (finishPoint F factor c s).withOther g o := by
  unfold finishPoint
  split <;> simp

theorem finishScaled_withOther (factor : Fmt → Fp → Fp) (c : Candidate) :
    finishScaled F factor c (s.withOther g o) = (finishScaled F factor c s).withOther g o := by
  unfold finishScaled
  split <;> simp

/-! ### The rejection loop -/

@[simp] theorem State.withOther_candidate :
    (s.withOther g o).candidate g F = s.candidate g F := by
  simp [State.candidate]

@[simp] theorem State.withOther_afterIteration :
    (s.withOther g o).afterIteration g = (s.afterIteration g).withOther g o := by
  simp [State.afterIteration]

theorem diskLoop_withOther (n : Nat) :
    diskLoop n g F (s.withOther g o) =
      ((diskLoop n g F s).1, (diskLoop n g F s).2.withOther g o) := by
  induction n generalizing s with
  | zero => rfl
  | succ n ih =>
    simp only [diskLoop, State.withOther_candidate, State.withOther_afterIteration, ih]
    split <;> rfl

end

/-! ### Commands -/

/-- `f` does the same whatever the generator other than `g` holds, and passes it on. -/
def Isolated (g : Gen) (f : State → Host.Outcome State Fault Refusal) : Prop :=
  ∀ o s t, f s = .next t → f (s.withOther g o) = .next (t.withOther g o)

/-- What does not depend on the other generator does not change it either. -/
theorem Isolated.withOther_eq {g : Gen} {f : State → Host.Outcome State Fault Refusal}
    (hf : Isolated g f) {s t : State} (h : f s = .next t) : t.withOther g s = t := by
  have hself := hf s s t h
  rw [State.withOther_self, h] at hself
  exact (Host.Outcome.next.inj hself).symm

theorem isolated_next {g : Gen} {u : State → State}
    (hu : ∀ o s, u (s.withOther g o) = (u s).withOther g o) :
    Isolated g fun s => .next (u s) := by
  rintro o s _ ⟨⟩
  exact congrArg Host.Outcome.next (hu o s)

theorem isolated_withDisk {g : Gen} {F : Fmt} {finish : Candidate → State → State}
    (hfin : ∀ c o s, finish c (s.withOther g o) = (finish c s).withOther g o) :
    Isolated g (withDisk g F finish) := by
  intro o s t h
  unfold withDisk at h ⊢
  rw [diskLoop_withOther]
  match hd : diskLoop Config.diskBurst g F s with
  | (some c, s') =>
    rw [hd] at h
    obtain rfl := Host.Outcome.next.inj h
    exact congrArg Host.Outcome.next (hfin c o s')
  | (none, s') =>
    rw [hd] at h
    obtain rfl := Host.Outcome.next.inj h
    exact congrArg Host.Outcome.next (State.withOther_phase g o s' .executing)

theorem isolated_execUintn (g : Gen) : Isolated g (execUintn g) := by
  refine isolated_next fun o s => ?_
  rw [State.withOther_modulus]
  split
  · exact State.withOther_raise g o s .divideByZero
  · exact boundedInteger_withOther g o s (s.modulus g)

/-- Every command is isolated from the generator it does not select (10_state.md R24). -/
theorem exec_isolated (i : Instr) : Isolated i.gen (exec i) := by
  cases i with
  | init32 | init64 | initd32 | initd64 | seed32 | seed64 | next32 | next64 | discard32
  | discard64 => exact isolated_next fun _ _ => rfl
  | getmin g | getmax g => exact isolated_next fun o s => State.withOther_respond g o s _ 0 0
  | uint g => exact isolated_next fun o s => boundedInteger_withOther g o s (genMax g)
  | uintn g => exact isolated_execUintn g
  | real g F | realn g F | real2 g F | realn2 g F =>
    exact isolated_next fun o s => by simp [Instr.gen]
  | disk g F =>
    exact isolated_withDisk fun c o s => State.withOther_respondTriple g F o s c.x c.y c.s
  | gauss g F => exact isolated_withDisk fun c o s => finishPoint_withOther g F o s gaussFactor c
  | gaussr g F => exact isolated_withDisk fun c o s => finishScaled_withOther g F o s gaussFactor c
  | expo g F => exact isolated_withDisk fun c o s => finishPoint_withOther g F o s expoFactor c
  | expor g F => exact isolated_withDisk fun c o s => finishScaled_withOther g F o s expoFactor c

/-- Settles O15: each half is `exec_isolated` for one selector, and the unchanged generator is
`Isolated.withOther_eq` read at its field. -/
theorem otherGeneratorIsolated : Obligations.OtherGeneratorIsolated := by
  constructor
  · intro i s t h hgen hexec
    have hi : Isolated .g32 (exec i) := hgen ▸ exec_isolated i
    have hkept := hi.withOther_eq hexec
    have hsame := hi { s with g64 := h } s t hexec
    simp only [State.withOther_g32] at hkept hsame
    exact ⟨(congrArg State.g64 hkept).symm, hsame⟩
  · intro i s t h hgen hexec
    have hi : Isolated .g64 (exec i) := hgen ▸ exec_isolated i
    have hkept := hi.withOther_eq hexec
    have hsame := hi { s with g32 := h } s t hexec
    simp only [State.withOther_g64] at hkept hsame
    exact ⟨(congrArg State.g32 hkept).symm, hsame⟩

end Sys2Proof.Machine

/-! # What a command leaves alone, and runs as folds (20_memory.md R46, R51; 30_encoding.md R58)

A command either ends, with a response in the block and the interface as it was, or is a rejection
loop that goes on. The rest follows from this. A loop goes without a response exactly as long as its
bursts reject; and a run leads where the fold does, because what is left to do at a moment,
`completesTo`, is kept by every transition, and because the untimed `exec` of a command is a run. -/

namespace Sys2Proof.Machine

/-! ### The interface -/

/-- `t` agrees with `s` in all but the generators, the phase and the count of NaN draws: the sampled
command, the reset history and the host's side. -/
structure SameInterface (s t : State) : Prop where
  cmd : t.cmd = s.cmd
  arg : t.arg = s.arg
  resetSeen : t.resetSeen = s.resetSeen
  rst : t.rst = s.rst
  rspReady : t.rspReady = s.rspReady
  commands : t.commands = s.commands
  received : t.received = s.received

theorem SameInterface.trans {s t u : State} (h : SameInterface s t) (h' : SameInterface t u) :
    SameInterface s u where
  cmd := h'.cmd.trans h.cmd
  arg := h'.arg.trans h.arg
  resetSeen := h'.resetSeen.trans h.resetSeen
  rst := h'.rst.trans h.rst
  rspReady := h'.rspReady.trans h.rspReady
  commands := h'.commands.trans h.commands
  received := h'.received.trans h.received

theorem sameInterface_advance (g : Gen) (s : State) : SameInterface s (s.advance g) := by
  constructor <;> simp

theorem sameInterface_afterIterations (g : Gen) (k : Nat) (s : State) :
    SameInterface s (s.afterIterations g k) := by
  obtain ⟨-, hcmd, harg, hseen, hrst, hready, hcommands, hreceived, -⟩ :=
    s.afterIterations_frame g k
  exact ⟨hcmd, harg, hseen, hrst, hready, hcommands, hreceived⟩

/-! ### Ends of commands -/

/-- The command of `s` has ended in `t`: a response waits, and the interface is as it was. -/
def EndsCommand (s t : State) : Prop := SameInterface s t ∧ ∃ r, t.phase = .responding r

theorem EndsCommand.of_sameInterface {s t u : State} (h : SameInterface s t)
    (h' : EndsCommand t u) : EndsCommand s u :=
  ⟨h.trans h'.1, h'.2⟩

theorem endsCommand_respond (r0 r1 r2 : Word64) (s : State) :
    EndsCommand s (s.respond r0 r1 r2) :=
  ⟨by constructor <;> simp, _, State.respond_phase r0 r1 r2 s⟩

theorem endsCommand_raise (e : Exception) (s : State) : EndsCommand s (s.raise e) :=
  ⟨by constructor <;> simp, _, State.raise_phase e s⟩

theorem endsCommand_respondReal (F : Fmt) (v : Fp) (s : State) :
    EndsCommand s (s.respondReal F v) :=
  ⟨by constructor <;> simp, _, State.respondReal_phase F v s⟩

theorem endsCommand_respondPair (F : Fmt) (v0 v1 : Fp) (s : State) :
    EndsCommand s (s.respondPair F v0 v1) :=
  ⟨by constructor <;> simp, _, State.respondPair_phase F v0 v1 s⟩

theorem endsCommand_respondTriple (F : Fmt) (v0 v1 v2 : Fp) (s : State) :
    EndsCommand s (s.respondTriple F v0 v1 v2) :=
  ⟨by constructor <;> simp, _, State.respondTriple_phase F v0 v1 v2 s⟩

theorem endsCommand_boundedInteger (g : Gen) (n : Word64) (s : State) :
    EndsCommand s (boundedInteger g n s) :=
  .of_sameInterface (sameInterface_advance g s) (endsCommand_respond _ 0 0 _)

theorem endsCommand_advance_respondReal (g : Gen) (F : Fmt) (v : Fp) (s : State) :
    EndsCommand s ((s.advance g).respondReal F v) :=
  .of_sameInterface (sameInterface_advance g s) (endsCommand_respondReal F v _)

theorem endsCommand_finishPoint (F : Fmt) (factor : Fmt → Fp → Fp) (c : Candidate) (s : State) :
    EndsCommand s (finishPoint F factor c s) := by
  unfold finishPoint
  split
  · exact endsCommand_raise .domainError s
  · exact endsCommand_respondPair F _ _ s

theorem endsCommand_finishScaled (F : Fmt) (factor : Fmt → Fp → Fp) (c : Candidate) (s : State) :
    EndsCommand s (finishScaled F factor c s) := by
  unfold finishScaled
  split
  · exact endsCommand_raise .domainError s
  · exact endsCommand_respondPair F _ _ s

/-! ### Commands with and without a rejection loop -/

/-- A command without a rejection loop ends in one transition. -/
theorem exec_ends {i : Instr} (hi : i.samplesDisk = false) (s : State) :
    ∃ t, exec i s = .next t ∧ EndsCommand s t := by
  cases i with
  | init32 | init64 | initd32 | initd64 | seed32 | seed64 | discard32 | discard64 =>
    exact ⟨_, rfl, ⟨rfl, rfl, rfl, rfl, rfl, rfl, rfl⟩, _, rfl⟩
  | next32 =>
    exact ⟨_, rfl, .of_sameInterface (sameInterface_advance .g32 s) (endsCommand_respond _ 0 0 _)⟩
  | next64 =>
    exact ⟨_, rfl, .of_sameInterface (sameInterface_advance .g64 s) (endsCommand_respond _ 0 0 _)⟩
  | getmin g | getmax g => exact ⟨_, rfl, endsCommand_respond _ 0 0 s⟩
  | uint g => exact ⟨_, rfl, endsCommand_boundedInteger g _ s⟩
  | uintn g =>
    refine ⟨_, rfl, ?_⟩
    split
    · exact endsCommand_raise .divideByZero s
    · exact endsCommand_boundedInteger g _ s
  | real g F | realn g F | real2 g F | realn2 g F =>
    exact ⟨_, rfl, endsCommand_advance_respondReal g F _ s⟩
  | disk | gauss | gaussr | expo | expor => exact absurd hi (by simp [Instr.samplesDisk])

/-- `i` is a rejection loop in the format `F` that `finish` ends. -/
structure IsLoop (i : Instr) (F : Fmt) (finish : Candidate → State → State) : Prop where
  fmt : i.fmt = some F
  exec_eq : ∀ s, exec i s = withDisk i.gen F finish s
  ends : ∀ c s, EndsCommand s (finish c s)

/-- The commands that call `disk` are rejection loops (43_disk_gaussian_sampler.md R160). -/
theorem exists_isLoop {i : Instr} (hi : i.samplesDisk = true) : ∃ F finish, IsLoop i F finish := by
  cases i with
  | disk g F => exact ⟨F, _, rfl, fun _ => rfl, fun _ => endsCommand_respondTriple F _ _ _⟩
  | gauss g F => exact ⟨F, _, rfl, fun _ => rfl, endsCommand_finishPoint F gaussFactor⟩
  | gaussr g F => exact ⟨F, _, rfl, fun _ => rfl, endsCommand_finishScaled F gaussFactor⟩
  | expo g F => exact ⟨F, _, rfl, fun _ => rfl, endsCommand_finishPoint F expoFactor⟩
  | expor g F => exact ⟨F, _, rfl, fun _ => rfl, endsCommand_finishScaled F expoFactor⟩
  | _ => exact absurd hi (by simp [Instr.samplesDisk])

/-- The state after a whole burst of rejections. -/
def State.afterBurst (g : Gen) (s : State) : State :=
  { s.afterIterations g Config.diskBurst with phase := .executing }

theorem sameInterface_afterBurst (g : Gen) (s : State) : SameInterface s (s.afterBurst g) :=
  (sameInterface_afterIterations g Config.diskBurst s).trans ⟨rfl, rfl, rfl, rfl, rfl, rfl, rfl⟩

/-- A rejection loop ends within a burst, or goes on after one. -/
theorem IsLoop.exec_cases {i : Instr} {F : Fmt} {finish : Candidate → State → State}
    (hi : IsLoop i F finish) (s : State) :
    (∃ k < Config.diskBurst, ∃ t, s.acceptsAfter i.gen F k ∧ exec i s = .next t ∧
      EndsCommand s t) ∨
    (s.rejectsFor i.gen F Config.diskBurst ∧ exec i s = .next (s.afterBurst i.gen)) := by
  rw [hi.exec_eq]
  rcases withDisk_cases i.gen F finish s with ⟨k, hk, hacc, hexec⟩ | ⟨hrej, hexec⟩
  · exact .inl ⟨k, hk, _, hacc, hexec,
      .of_sameInterface (sameInterface_afterIterations i.gen (k + 1) s) (hi.ends _ _)⟩
  · exact .inr ⟨hrej, hexec⟩

/-- Everything a command can do: end, or stay in the block, and either way leave the interface
alone. -/
theorem exec_cases {i : Instr} {s t : State} (h : exec i s = .next t) :
    EndsCommand s t ∨ (SameInterface s t ∧ t.phase = .executing) := by
  match hi : i.samplesDisk with
  | false =>
    obtain ⟨u, hu, hends⟩ := exec_ends hi s
    obtain rfl := Host.Outcome.next.inj (hu.symm.trans h)
    exact .inl hends
  | true =>
    obtain ⟨F, finish, hloop⟩ := exists_isLoop hi
    rcases hloop.exec_cases s with ⟨-, -, u, -, hu, hends⟩ | ⟨-, hu⟩
    · obtain rfl := Host.Outcome.next.inj (hu.symm.trans h)
      exact .inl hends
    · obtain rfl := Host.Outcome.next.inj (hu.symm.trans h)
      exact .inr ⟨sameInterface_afterBurst i.gen s, rfl⟩

theorem exec_sameInterface {i : Instr} {s t : State} (h : exec i s = .next t) :
    SameInterface s t := by
  rcases exec_cases h with ⟨hsame, -⟩ | ⟨hsame, -⟩ <;> exact hsame

/-- Only a command with a format draws NaN encodings (log 4). -/
theorem exec_draws {i : Instr} {s t : State} (hi : i.fmt = none) (h : exec i s = .next t) :
    t.draws = s.draws := by
  cases i with
  | init32 | init64 | initd32 | initd64 | seed32 | seed64 | next32 | next64 | discard32
  | discard64 | getmin | getmax => cases h; rfl
  | uint g => cases h; simp [boundedInteger]
  | uintn g =>
    cases h
    split
    · exact State.raise_draws .divideByZero s
    · simp [boundedInteger]
  | _ => exact absurd hi (by simp [Instr.fmt])

/-- Settles O17: the interface by `exec_sameInterface`, the count of draws by `exec_draws`. -/
theorem commandsLeaveInterfaceAlone : Obligations.CommandsLeaveInterfaceAlone := by
  intro i s t h
  obtain ⟨hcmd, harg, hseen, hrst, hready, hcommands, hreceived⟩ := exec_sameInterface h
  exact ⟨hcmd, harg, hseen, hrst, hready, hcommands, hreceived, fun hi => exec_draws hi h⟩

/-! ### The command in the block -/

/-- Everything the command in the block can do: an illegal word ends like a command does. -/
theorem runCommand_ends_or_executing {s t : State} (h : runCommand s = .next t) :
    EndsCommand s t ∨ (SameInterface s t ∧ t.phase = .executing) := by
  rcases runCommand_cases s with ⟨i, -, hrun⟩ | ⟨e, -, hrun⟩
  · exact exec_cases (hrun.symm.trans h)
  · obtain rfl := Host.Outcome.next.inj (hrun.symm.trans h)
    exact .inl (endsCommand_raise .illegalCommand s)

theorem runCommand_sameInterface {s t : State} (h : runCommand s = .next t) :
    SameInterface s t := by
  rcases runCommand_ends_or_executing h with ⟨hsame, -⟩ | ⟨hsame, -⟩ <;> exact hsame

theorem runCommand_next (s : State) : ∃ t, runCommand s = .next t := by
  rcases runCommand_cases s with ⟨i, -, hrun⟩ | ⟨e, -, hrun⟩
  · exact hrun ▸ exec_next i s
  · exact ⟨_, hrun⟩

/-! ### Commands that never respond -/

theorem State.afterIterations_phase (g : Gen) (k : Nat) (s : State) (p : Phase) :
    ({ s with phase := p } : State).afterIterations g k =
      { s.afterIterations g k with phase := p } := by
  induction k generalizing s with
  | zero => rfl
  | succ k ih =>
    rw [State.afterIterations_succ, State.afterIterations_succ, ← ih]
    cases g <;> rfl

theorem State.candidate_phase (g : Gen) (F : Fmt) (s : State) (p : Phase) :
    ({ s with phase := p } : State).candidate g F = s.candidate g F := by
  cases g <;> rfl

theorem State.rejectsFor_mono {g : Gen} {F : Fmt} {s : State} {j k : Nat} (hjk : j ≤ k)
    (h : s.rejectsFor g F k) : s.rejectsFor g F j :=
  fun m hm => h m (hm.trans_le hjk)

theorem State.rejectsFor_add (g : Gen) (F : Fmt) (s : State) (j k : Nat) :
    s.rejectsFor g F (j + k) ↔
      s.rejectsFor g F j ∧ (s.afterIterations g j).rejectsFor g F k := by
  constructor
  · intro h
    refine ⟨State.rejectsFor_mono (Nat.le_add_right j k) h, fun m hm => ?_⟩
    rw [← State.afterIterations_add]
    exact h (j + m) (by omega)
  · rintro ⟨hfirst, hrest⟩ m hm
    rcases Nat.lt_or_ge m j with hlt | hge
    · exact hfirst m hlt
    · obtain ⟨d, rfl⟩ := Nat.exists_eq_add_of_le hge
      rw [State.afterIterations_add]
      exact hrest d (by omega)

theorem State.afterBurst_rejectsFor (g : Gen) (F : Fmt) (s : State) (k : Nat) :
    (s.afterBurst g).rejectsFor g F k ↔
      (s.afterIterations g Config.diskBurst).rejectsFor g F k := by
  simp only [State.rejectsFor, State.afterBurst, State.afterIterations_phase,
    State.candidate_phase]

/-- The key fact of the untimed `exec` about a rejection loop: it goes without a response for `n`
bursts exactly where all their iterations reject. -/
theorem IsLoop.runToResponse_eq_none_iff {i : Instr} {F : Fmt}
    {finish : Candidate → State → State} (hi : IsLoop i F finish) (n : Nat) {s : State}
    (hdec : decode s.cmd = .ok i) :
    runToResponse n s = none ↔ s.rejectsFor i.gen F (Config.diskBurst * n) := by
  induction n generalizing s with
  | zero => simp [runToResponse, State.rejectsFor]
  | succ n ih =>
    have hrun : runCommand s = exec i s := by simp [runCommand, hdec]
    rcases hi.exec_cases s with ⟨k, hk, t, hacc, hexec, -, r, hr⟩ | ⟨hrej, hexec⟩
    · have hle : Config.diskBurst ≤ Config.diskBurst * (n + 1) :=
        Nat.le_mul_of_pos_right _ n.succ_pos
      have hnot : ¬ s.rejectsFor i.gen F (Config.diskBurst * (n + 1)) := fun h =>
        absurd hacc.2 (by simp [h k (hk.trans_le hle)])
      simp [runToResponse_succ (hrun.trans hexec), hr, hnot]
    · have hdec' : decode (s.afterBurst i.gen).cmd = .ok i := by
        rw [(sameInterface_afterBurst i.gen s).cmd, hdec]
      calc runToResponse (n + 1) s = none
          ↔ runToResponse n (s.afterBurst i.gen) = none := by
            rw [runToResponse_succ (hrun.trans hexec)]; rfl
        _ ↔ (s.afterIterations i.gen Config.diskBurst).rejectsFor i.gen F
              (Config.diskBurst * n) := by
            rw [ih hdec', State.afterBurst_rejectsFor]
        _ ↔ s.rejectsFor i.gen F (Config.diskBurst * (n + 1)) := by
            rw [Nat.mul_succ, Nat.add_comm, State.rejectsFor_add]
            simp [hrej]

theorem IsLoop.neverResponds_iff {i : Instr} {F : Fmt} {finish : Candidate → State → State}
    (hi : IsLoop i F finish) {s : State} (hdec : decode s.cmd = .ok i) :
    s.neverResponds ↔ ∀ k, s.rejectsFor i.gen F k := by
  have hburst : 0 < Config.diskBurst := by decide
  constructor
  · intro h k
    exact State.rejectsFor_mono (Nat.le_mul_of_pos_left k hburst)
      ((hi.runToResponse_eq_none_iff k hdec).1 (h k))
  · intro h n
    exact (hi.runToResponse_eq_none_iff n hdec).2 (h _)

/-- A command that ends in its first transition responds. -/
theorem EndsCommand.not_neverResponds {s t : State} (h : EndsCommand s t)
    (hrun : runCommand s = .next t) : ¬ s.neverResponds := by
  obtain ⟨-, r, hr⟩ := h
  intro hnever
  simpa [runToResponse_succ hrun, hr] using hnever 1

/-- A command never responds exactly where it is a rejection loop no iteration of which accepts
(43_disk_gaussian_sampler.md R163). -/
theorem neverResponds_iff (s : State) :
    s.neverResponds ↔
      ∃ i F, decode s.cmd = .ok i ∧ i.samplesDisk = true ∧ i.fmt = some F ∧
        ∀ k, s.rejectsFor i.gen F k := by
  constructor
  · intro hnever
    rcases runCommand_cases s with ⟨i, hdec, hrun⟩ | ⟨e, -, hrun⟩
    · match hi : i.samplesDisk with
      | false =>
        obtain ⟨t, ht, hends⟩ := exec_ends hi s
        exact absurd hnever (hends.not_neverResponds (hrun.trans ht))
      | true =>
        obtain ⟨F, finish, hloop⟩ := exists_isLoop hi
        exact ⟨i, F, hdec, hi, hloop.fmt, (hloop.neverResponds_iff hdec).1 hnever⟩
    · exact absurd hnever ((endsCommand_raise .illegalCommand s).not_neverResponds hrun)
  · rintro ⟨i, F, hdec, hi, hfmt, hrej⟩
    obtain ⟨F', finish, hloop⟩ := exists_isLoop hi
    obtain rfl : F' = F := Option.some.inj (hloop.fmt.symm.trans hfmt)
    exact (hloop.neverResponds_iff hdec).2 hrej

/-! ### Transitions of a block whose host takes every response -/

/-- The block has been reset and can act, and the host takes responses. -/
def State.serving (s : State) : Prop := s.live ∧ s.rspReady = true

theorem SameInterface.serving {s t : State} (h : SameInterface s t) (hs : s.serving) :
    t.serving := by
  obtain ⟨⟨hrst, hseen⟩, hready⟩ := hs
  exact ⟨⟨h.rst.trans hrst, h.resetSeen.trans hseen⟩, h.rspReady.trans hready⟩

theorem serving_accept {s : State} (hs : s.serving) (c : Command) (rest : List Command) :
    (s.accept c rest).serving := hs

theorem serving_takeResponse {s : State} (hs : s.serving) (r : Response) :
    (s.takeResponse r).serving := hs

theorem step_idle_nil {s : State} (hs : s.serving) (hp : s.phase = .idle)
    (hc : s.commands = []) : step s = .next s := by
  obtain ⟨⟨hrst, hseen⟩, -⟩ := hs
  simp [step, transition, runBlock, hrst, hseen, hp, hc]

theorem step_idle_cons {s : State} (hs : s.serving) (hp : s.phase = .idle) {c : Command}
    {rest : List Command} (hc : s.commands = c :: rest) :
    step s = runCommand (s.accept c rest) := by
  obtain ⟨⟨hrst, hseen⟩, -⟩ := hs
  simp [step, transition, runBlock, hrst, hseen, hp, hc]

theorem step_executing {s : State} (hs : s.serving) (hp : s.phase = .executing) :
    step s = runCommand s := by
  obtain ⟨⟨hrst, hseen⟩, -⟩ := hs
  simp [step, transition, runBlock, hrst, hseen, hp]

theorem step_responding {s : State} (hs : s.serving) {r : Response}
    (hp : s.phase = .responding r) : step s = .next (s.takeResponse r) := by
  obtain ⟨⟨hrst, hseen⟩, hready⟩ := hs
  simp [step, transition, runBlock, hrst, hseen, hready, hp]

/-! ### From the fold to a run -/

/-- Some number of transitions leads from `s` to `t`. -/
def reaches (s t : State) : Prop := ∃ n, run n s = .next t

theorem reaches_of_step {s u t : State} (hstep : step s = .next u) (h : reaches u t) :
    reaches s t := by
  obtain ⟨n, hn⟩ := h
  exact ⟨n + 1, by simp [run, hstep, hn]⟩

/-- The state the untimed `exec` ends in has the interface of the state it begins in, and the
response in the block. -/
theorem runToResponse_frame {n : Nat} {s u : State} {r : Response}
    (h : runToResponse n s = some (r, u)) : SameInterface s u ∧ u.phase = .responding r := by
  induction n generalizing s with
  | zero => simp [runToResponse] at h
  | succ n ih =>
    obtain ⟨t, ht⟩ := runCommand_next s
    rw [runToResponse_succ ht] at h
    rcases runCommand_ends_or_executing ht with ⟨hsame, q, hq⟩ | ⟨hsame, hexec⟩
    · simp only [hq, Option.some.injEq, Prod.mk.injEq] at h
      obtain ⟨rfl, rfl⟩ := h
      exact ⟨hsame, hq⟩
    · simp only [hexec] at h
      obtain ⟨hsame', hr⟩ := ih h
      exact ⟨hsame.trans hsame', hr⟩

/-- A transition that runs the command of `v` begins a run that takes the command's response. -/
theorem reaches_of_runToResponse {n : Nat} {s v u t : State} {r : Response}
    (hstep : step s = runCommand v) (hv : v.serving) (h : runToResponse n v = some (r, u))
    (ht : reaches (u.takeResponse r) t) : reaches s t := by
  induction n generalizing s v with
  | zero => simp [runToResponse] at h
  | succ n ih =>
    obtain ⟨w, hw⟩ := runCommand_next v
    refine reaches_of_step (hstep.trans hw) ?_
    rw [runToResponse_succ hw] at h
    rcases runCommand_ends_or_executing hw with ⟨hsame, q, hq⟩ | ⟨hsame, hexec⟩
    · simp only [hq, Option.some.injEq, Prod.mk.injEq] at h
      obtain ⟨rfl, rfl⟩ := h
      exact reaches_of_step (step_responding (hsame.serving hv) hq) ht
    · simp only [hexec] at h
      exact ih (step_executing (hsame.serving hv) hexec) (hsame.serving hv) h

theorem reaches_of_foldsTo {cs : List Command} {s t : State} (hs : s.serving)
    (hp : s.phase = .idle) (hc : s.commands = cs) (h : foldsTo cs s t) :
    reaches s t ∧ t.phase = .idle ∧ t.commands = [] := by
  induction cs generalizing s with
  | nil =>
    obtain rfl : t = s := h
    exact ⟨⟨0, rfl⟩, hp, hc⟩
  | cons c rest ih =>
    obtain ⟨r, u, ⟨n, hn⟩, hfold⟩ := h
    have hacc := serving_accept hs c rest
    obtain ⟨hsame, -⟩ := runToResponse_frame hn
    have hu : (u.takeResponse r).serving := serving_takeResponse (hsame.serving hacc) r
    obtain ⟨hreach, hend⟩ := ih hu (State.takeResponse_phase r u) hsame.commands hfold
    exact ⟨reaches_of_runToResponse (step_idle_cons hs hp hc) hacc hn hreach, hend⟩

/-! ### From a run to the fold -/

/-- What is left to do in `s` leads to `t`: the command in the block runs to its response, the
response is taken, and the commands still to be presented are folded. -/
def completesTo (s t : State) : Prop :=
  match s.phase with
  | .idle => foldsTo s.commands s t
  | .executing => ∃ r u, s.respondsWith r u ∧ foldsTo s.commands (u.takeResponse r) t
  | .responding r => foldsTo s.commands (s.takeResponse r) t

theorem completesTo_idle {s t : State} (hp : s.phase = .idle) :
    completesTo s t ↔ foldsTo s.commands s t := by simp [completesTo, hp]

theorem completesTo_executing {s t : State} (hp : s.phase = .executing) :
    completesTo s t ↔ ∃ r u, s.respondsWith r u ∧ foldsTo s.commands (u.takeResponse r) t := by
  simp [completesTo, hp]

theorem completesTo_responding {s t : State} {r : Response} (hp : s.phase = .responding r) :
    completesTo s t ↔ foldsTo s.commands (s.takeResponse r) t := by simp [completesTo, hp]

theorem completesTo_accept {s t : State} (hp : s.phase = .idle) {c : Command}
    {rest : List Command} (hc : s.commands = c :: rest) :
    completesTo s t ↔ completesTo (s.accept c rest) t := by
  rw [completesTo_idle hp, completesTo_executing (State.accept_phase c rest s), hc]
  rfl

/-- Running the command in the block keeps what is left to do. -/
theorem completesTo_of_runCommand {s u t : State} (hp : s.phase = .executing)
    (hrun : runCommand s = .next u) (h : completesTo u t) : completesTo s t := by
  rw [completesTo_executing hp]
  rcases runCommand_ends_or_executing hrun with ⟨hsame, r, hr⟩ | ⟨hsame, hexec⟩
  · rw [completesTo_responding hr, hsame.commands] at h
    exact ⟨r, u, ⟨1, by simp [runToResponse_succ hrun, hr]⟩, h⟩
  · rw [completesTo_executing hexec, hsame.commands] at h
    obtain ⟨r, v, ⟨n, hn⟩, hfold⟩ := h
    exact ⟨r, v, ⟨n + 1, by simp [runToResponse_succ hrun, hexec, hn]⟩, hfold⟩

/-- Every transition of a serving block is to a serving block with the same left to do. -/
theorem serving_and_completesTo_of_step {s u : State} (hs : s.serving) (hstep : step s = .next u) :
    u.serving ∧ ∀ t, completesTo u t → completesTo s t := by
  match hp : s.phase with
  | .idle =>
    match hc : s.commands with
    | [] =>
      obtain rfl := Host.Outcome.next.inj ((step_idle_nil hs hp hc).symm.trans hstep)
      exact ⟨hs, fun _ h => h⟩
    | c :: rest =>
      have hrun := (step_idle_cons hs hp hc).symm.trans hstep
      refine ⟨(runCommand_sameInterface hrun).serving (serving_accept hs c rest), fun t h => ?_⟩
      rw [completesTo_accept hp hc]
      exact completesTo_of_runCommand (State.accept_phase c rest s) hrun h
  | .executing =>
    have hrun := (step_executing hs hp).symm.trans hstep
    exact ⟨(runCommand_sameInterface hrun).serving hs,
      fun _ h => completesTo_of_runCommand hp hrun h⟩
  | .responding r =>
    obtain rfl := Host.Outcome.next.inj ((step_responding hs hp).symm.trans hstep)
    refine ⟨serving_takeResponse hs r, fun t h => ?_⟩
    rwa [completesTo_responding hp]

/-- A run that ends with nothing left to do ends where what was left to do leads. -/
theorem completesTo_of_run {n : Nat} {s t : State} (hs : s.serving) (h : run n s = .next t)
    (hp : t.phase = .idle) (hc : t.commands = []) : completesTo s t := by
  induction n generalizing s with
  | zero =>
    obtain rfl := Host.Outcome.next.inj h
    rw [completesTo_idle hp, hc]
    rfl
  | succ n ih =>
    match hstep : step s with
    | .next u =>
      obtain ⟨hu, hback⟩ := serving_and_completesTo_of_step hs hstep
      exact hback t (ih hu (by simpa [run, hstep] using h))
    | .fault e => simp [run, hstep] at h
    | .refused e => simp [run, hstep] at h

/-- Settles O14: a run follows what is left to do (`completesTo_of_run`), the fold is run by
`reaches_of_foldsTo`, and `neverResponds_iff` is the second half. -/
theorem runIsFoldOfCommands : Obligations.RunIsFoldOfCommands := by
  refine ⟨fun s t hlive hp hready => ⟨?_, fun h => ?_⟩, neverResponds_iff⟩
  · rintro ⟨n, hrun, hidle, hdone⟩
    exact (completesTo_idle hp).1 (completesTo_of_run ⟨hlive, hready⟩ hrun hidle hdone)
  · obtain ⟨⟨n, hrun⟩, hend⟩ := reaches_of_foldsTo ⟨hlive, hready⟩ hp rfl h
    exact ⟨n, hrun, hend⟩

end Sys2Proof.Machine

/-! # The decoder and the encoder (30_encoding.md R59 to R61, R67)

A word decodes exactly through the one row it matches, a row leaves open nothing but the selector
bits, and the encoder fills these in; so a command has one word and a legal word one command. Which
words are legal is then read off the fields. -/

namespace Sys2Proof

open Machine

/-! ### Words and their fields -/

/-- Where each bit of a word stands in its fields (30_encoding.md R59). -/
theorem CommandFields.getLsbD_toWord (f : CommandFields) (k : Nat) :
    f.toWord.getLsbD k =
      if k < 8 then f.opcode.getLsbD k
      else if k < 9 then f.gsel.getLsbD (k - 8)
      else if k < 10 then f.fsel.getLsbD (k - 9)
      else f.rsv.getLsbD (k - 10) := by
  change (f.rsv ++ f.fsel ++ f.gsel ++ f.opcode : BitVec (22 + 1 + 1 + 8)).getLsbD k = _
  simp only [BitVec.getLsbD_append]
  grind

@[simp] theorem CommandFields.ofWord_toWord (f : CommandFields) :
    CommandFields.ofWord f.toWord = f := by
  obtain ⟨rsv, fsel, gsel, opcode⟩ := f
  simp only [CommandFields.ofWord, CommandFields.mk.injEq]
  refine ⟨?_, ?_, ?_, ?_⟩ <;> ext i hi <;>
    simp only [BitVec.getElem_extractLsb', CommandFields.getLsbD_toWord] <;> grind

/-- The fields hold every bit of a word. -/
@[simp] theorem CommandFields.toWord_ofWord (c : Word32) : (CommandFields.ofWord c).toWord = c := by
  refine BitVec.eq_of_getLsbD_eq fun k hk => ?_
  simp only [getLsbD_toWord, ofWord, BitVec.getLsbD_extractLsb']
  grind

theorem CommandFields.ofWord_inj {c d : Word32} :
    CommandFields.ofWord c = CommandFields.ofWord d ↔ c = d :=
  ⟨fun h => by rw [← toWord_ofWord c, h, toWord_ofWord], congrArg _⟩

@[simp] theorem ofWord_encode (i : Instr) : CommandFields.ofWord (encode i) = fieldsOf i :=
  CommandFields.ofWord_toWord (fieldsOf i)

theorem encode_eq_iff (i : Instr) (c : Word32) :
    encode i = c ↔ fieldsOf i = CommandFields.ofWord c := by
  rw [← ofWord_encode, CommandFields.ofWord_inj]

/-- `GSEL` and `FSEL` are bits 8 and 9 (30_encoding.md R59). -/
theorem and_selectors (c : Word32) : c &&& 0x300 = selectorBits (gselOf c) (fselOf c) := by
  rw [show (0x300 : Word32) = .twoPow 32 8 ||| .twoPow 32 9 by decide, BitVec.and_or_distrib_left,
    BitVec.and_twoPow, BitVec.and_twoPow]
  unfold gselOf fselOf selectorBits
  split <;> split <;> decide

/-- The selector bits of a command's word select what the command carries (30_encoding.md R59). -/
theorem gselOf_encode (i : Instr) : gselOf (encode i) = i.gen := by
  have hbit : (encode i).getLsbD 8 = (gselBit i.gen).getLsbD 0 := by
    rw [encode, CommandFields.getLsbD_toWord]
    rfl
  rw [gselOf, hbit]
  cases i.gen <;> rfl

/-- A command without a format has `FSEL` 0, which is read as binary32 (30_encoding.md R59). -/
theorem fselOf_encode (i : Instr) : fselOf (encode i) = i.fmt.getD .b32 := by
  have hbit : (encode i).getLsbD 9 = (fselBit i.fmt).getLsbD 0 := by
    rw [encode, CommandFields.getLsbD_toWord]
    rfl
  rw [fselOf, hbit]
  match i.fmt with
  | none | some .b32 | some .b64 => rfl

/-! ### All commands -/

/-- The two selectors of a generator. -/
def allGens : List Gen := [.g32, .g64]

/-- The two selectors of a format. -/
def allFmts : List Fmt := [.b32, .b64]

/-- Every command, `GSEL` and `FSEL` in all their values (30_encoding.md R60, R67). -/
def allInstrs : List Instr :=
  [.init32, .init64, .initd32, .initd64, .seed32, .seed64, .next32, .next64, .discard32,
    .discard64] ++
  [Instr.getmin, .getmax, .uint, .uintn].flatMap (fun build => allGens.map build) ++
  [Instr.real, .realn, .real2, .realn2, .disk, .gauss, .gaussr, .expo, .expor].flatMap
    (fun build => allGens.flatMap fun g => allFmts.map (build g))

theorem allInstrs_nodup : allInstrs.Nodup := by decide +kernel

theorem allInstrs_length : allInstrs.length = 54 := rfl

theorem mem_allGens (g : Gen) : g ∈ allGens := by cases g <;> decide

theorem mem_allFmts (F : Fmt) : F ∈ allFmts := by cases F <;> decide

theorem mem_allInstrs (i : Instr) : i ∈ allInstrs := by
  cases i <;> simp [allInstrs, mem_allGens, mem_allFmts]

/-! ### Rows of the opcode table -/

/-- A row compares every bit but selectors its command uses, and the command's word is the row's
value with these selectors filled in. -/
structure EncodingRow.Faithful (r : EncodingRow) : Prop where
  value_compared : r.value &&& r.mask = r.value
  open_selectors : 0x300 &&& ~~~r.mask = ~~~r.mask
  encode_build : ∀ g F, encode (r.build g F) = r.value ||| (selectorBits g F &&& ~~~r.mask)

theorem faithful_of_mem : ∀ r ∈ encodingRows, r.Faithful := by
  have hmask : ∀ r ∈ encodingRows,
      r.value &&& r.mask = r.value ∧ 0x300 &&& ~~~r.mask = ~~~r.mask := by decide +kernel
  have hbuild : ∀ r ∈ encodingRows, ∀ g ∈ allGens, ∀ F ∈ allFmts,
      encode (r.build g F) = r.value ||| (selectorBits g F &&& ~~~r.mask) := by decide +kernel
  intro r hr
  obtain ⟨hvalue, hopen⟩ := hmask r hr
  exact ⟨hvalue, hopen, fun g F => hbuild r hr g (mem_allGens g) F (mem_allFmts F)⟩

/-- Every command has a row. -/
theorem exists_row (i : Instr) :
    ∃ r ∈ encodingRows, r.build i.gen (i.fmt.getD .b32) = i := by
  have hrows : ∀ i ∈ allInstrs, ∃ r ∈ encodingRows, r.build i.gen (i.fmt.getD .b32) = i := by
    decide +kernel
  exact hrows i (mem_allInstrs i)

theorem EncodingRow.matches_iff (r : EncodingRow) (c : Word32) :
    r.matches c = true ↔ c &&& r.mask = r.value := by
  simp [EncodingRow.matches]

/-- A word matches at most one row (30_encoding.md R61). -/
theorem row_unique {r q : EncodingRow} (hr : r ∈ encodingRows) (hq : q ∈ encodingRows)
    {c : Word32} (hrc : r.matches c = true) (hqc : q.matches c = true) : r = q := by
  rw [EncodingRow.matches_iff] at hrc hqc
  by_contra hne
  have hsymm : Std.Symm fun r q : EncodingRow =>
      r.value &&& (r.mask &&& q.mask) ≠ q.value &&& (r.mask &&& q.mask) :=
    ⟨fun a b h => by rw [BitVec.and_comm b.mask]; exact h.symm⟩
  refine encodingRows_disjoint.forall hr hq hne ?_
  rw [← hrc, ← hqc]
  ac_nf

theorem decode_of_matches {r : EncodingRow} (hr : r ∈ encodingRows) {c : Word32}
    (hc : r.matches c = true) : decode c = .ok (r.build (gselOf c) (fselOf c)) := by
  have hsome : (encodingRows.find? fun r => r.matches c).isSome := by
    rw [List.find?_isSome]
    exact ⟨r, hr, hc⟩
  obtain ⟨q, hq⟩ := Option.isSome_iff_exists.1 hsome
  have hqc : q.matches c = true := by simpa using List.find?_some hq
  obtain rfl := row_unique (List.mem_of_find?_eq_some hq) hr hqc hc
  simp [decode, hq]

theorem EncodingRow.Faithful.matches_encode {r : EncodingRow} (hr : r.Faithful) (g : Gen)
    (F : Fmt) : r.matches (encode (r.build g F)) = true := by
  simp [EncodingRow.matches_iff, hr.encode_build, BitVec.and_or_distrib_right, BitVec.and_assoc,
    hr.value_compared]

/-! ### Decode and encode -/

theorem decode_encode (i : Instr) : decode (encode i) = .ok i := by
  obtain ⟨r, hr, hi⟩ := exists_row i
  have hmatch : r.matches (encode i) = true := hi ▸ (faithful_of_mem r hr).matches_encode _ _
  rw [decode_of_matches hr hmatch, gselOf_encode, fselOf_encode, hi]

theorem encode_of_decode {c : Word32} {i : Instr} (h : decode c = .ok i) : encode i = c := by
  obtain ⟨r, hr, hc, rfl⟩ := decode_ok h
  obtain ⟨-, hopen, hbuild⟩ := faithful_of_mem r hr
  rw [EncodingRow.matches_iff] at hc
  calc encode (r.build (gselOf c) (fselOf c))
      = (c &&& r.mask) ||| (c &&& 0x300 &&& ~~~r.mask) := by rw [hbuild, hc, and_selectors]
    _ = (c &&& r.mask) ||| (c &&& ~~~r.mask) := by rw [BitVec.and_assoc, hopen]
    _ = c := by rw [← BitVec.and_or_distrib_left, BitVec.or_not_self, BitVec.and_allOnes]

/-- The decoder reads a word as a command exactly where it is that command's word. -/
theorem decode_eq_ok_iff {c : Word32} {i : Instr} : decode c = .ok i ↔ encode i = c :=
  ⟨encode_of_decode, fun h => h ▸ decode_encode i⟩

theorem encode_injective : Function.Injective encode := fun i j h => by
  simpa [decode_encode] using congrArg decode h

/-- Settles O2: one half through the row a command has, the other through the row a word matches. -/
theorem decodeEncodeInverse : Obligations.DecodeEncodeInverse :=
  ⟨decode_encode, fun _ _ => encode_of_decode⟩

/-- Settles O1: the seven words are the encodings of their commands. -/
theorem writtenWordsDecode : Obligations.WrittenWordsDecode := by
  simp only [Obligations.WrittenWordsDecode, decode_eq_ok_iff]
  decide

/-! ### Legal words -/

theorem wellFormed_fieldsOf (i : Instr) : (fieldsOf i).wellFormed = true := by
  rw [← ofWord_encode]
  exact match i with
  | .init32 => Laws.EncodesLegal.init32
  | .init64 => Laws.EncodesLegal.init64
  | .initd32 => Laws.EncodesLegal.initd32
  | .initd64 => Laws.EncodesLegal.initd64
  | .seed32 => Laws.EncodesLegal.seed32
  | .seed64 => Laws.EncodesLegal.seed64
  | .next32 => Laws.EncodesLegal.next32
  | .next64 => Laws.EncodesLegal.next64
  | .discard32 => Laws.EncodesLegal.discard32
  | .discard64 => Laws.EncodesLegal.discard64
  | .getmin g => Laws.EncodesLegal.getmin g
  | .getmax g => Laws.EncodesLegal.getmax g
  | .uint g => Laws.EncodesLegal.uint g
  | .uintn g => Laws.EncodesLegal.uintn g
  | .real g F => Laws.EncodesLegal.real g F
  | .realn g F => Laws.EncodesLegal.realn g F
  | .real2 g F => Laws.EncodesLegal.real2 g F
  | .realn2 g F => Laws.EncodesLegal.realn2 g F
  | .disk g F => Laws.EncodesLegal.disk g F
  | .gauss g F => Laws.EncodesLegal.gauss g F
  | .gaussr g F => Laws.EncodesLegal.gaussr g F
  | .expo g F => Laws.EncodesLegal.expo g F
  | .expor g F => Laws.EncodesLegal.expor g F

/-- Each value of the selector bits and each opcode that goes with it is a command's. -/
theorem exists_command (gsel fsel : BitVec 1) {opcode : BitVec 8}
    (h : opcode ∈ plainOpcodes ∧ fsel = 0 ∨ opcode ∈ floatOpcodes) :
    ∃ i, fieldsOf i = ⟨0, fsel, gsel, opcode⟩ := by
  have hplain : ∀ gsel : BitVec 1, ∀ opcode ∈ plainOpcodes,
      ∃ i ∈ allInstrs, fieldsOf i = ⟨0, 0, gsel, opcode⟩ := by decide +kernel
  have hfloat : ∀ gsel fsel : BitVec 1, ∀ opcode ∈ floatOpcodes,
      ∃ i ∈ allInstrs, fieldsOf i = ⟨0, fsel, gsel, opcode⟩ := by decide +kernel
  rcases h with ⟨hop, rfl⟩ | hop
  · obtain ⟨i, -, hi⟩ := hplain gsel opcode hop
    exact ⟨i, hi⟩
  · obtain ⟨i, -, hi⟩ := hfloat gsel fsel opcode hop
    exact ⟨i, hi⟩

/-- The three grounds of 30_encoding.md R66, put as what is left without them. -/
theorem CommandFields.wellFormed_iff (f : CommandFields) :
    f.wellFormed = true ↔
      f.rsv = 0 ∧ (f.opcode ∈ plainOpcodes ∧ f.fsel = 0 ∨ f.opcode ∈ floatOpcodes) := by
  have hdisj : ∀ o ∈ floatOpcodes, o ∉ plainOpcodes := by decide
  have hop := hdisj f.opcode
  simp only [wellFormed, reservedClear, opcodeAssigned, fselAllowed, Bool.and_eq_true,
    Bool.or_eq_true, beq_iff_eq, Bool.not_eq_true', List.contains_eq_mem, decide_eq_true_eq,
    decide_eq_false_iff_not]
  tauto

/-- A word is a command's exactly where its fields are well formed. -/
theorem legal_iff_wellFormed (c : Word32) :
    (∃ i, decode c = .ok i) ↔ (CommandFields.ofWord c).wellFormed = true := by
  simp only [decode_eq_ok_iff, encode_eq_iff]
  constructor
  · rintro ⟨i, hi⟩
    exact hi ▸ wellFormed_fieldsOf i
  · intro h
    obtain ⟨hrsv, hop⟩ := (CommandFields.wellFormed_iff _).1 h
    obtain ⟨i, hi⟩ := exists_command (CommandFields.ofWord c).gsel _ hop
    exact ⟨i, by rw [hi, ← hrsv]⟩

/-- Bits 31 to 9 are `RSV` and `FSEL`. -/
theorem extract_rsv_fsel_eq_zero_iff (c : Word32) :
    c.extractLsb' 9 23 = 0 ↔ c.extractLsb' 10 22 = 0 ∧ c.extractLsb' 9 1 = 0 := by
  constructor
  · intro h
    have hrsv : c.extractLsb' 10 22 = (c.extractLsb' 9 23).extractLsb' 1 22 := by
      ext k hk
      simp [show 9 + (1 + k) = 10 + k by omega, show 1 + k < 23 by omega]
    have hfsel : c.extractLsb' 9 1 = (c.extractLsb' 9 23).extractLsb' 0 1 := by
      ext k hk
      simp [show k < 23 by omega]
    rw [hrsv, hfsel, h]
    decide
  · rintro ⟨hrsv, hfsel⟩
    have hsplit : c.extractLsb' 10 22 ++ c.extractLsb' 9 1 = c.extractLsb' 9 23 :=
      BitVec.extractLsb'_append_extractLsb'_eq_extractLsb' (len₁ := 1) (len₂ := 22) rfl
    rw [← hsplit, hrsv, hfsel]
    rfl

/-- Settles O3: legal words by their fields, and the list as the words of all commands. -/
theorem legalWordsNumber54 : Obligations.LegalWordsNumber54 := by
  constructor
  · intro c
    rw [legal_iff_wellFormed, CommandFields.wellFormed_iff, extract_rsv_fsel_eq_zero_iff]
    simp only [CommandFields.ofWord]
    unfold plainOpcodes floatOpcodes
    tauto
  · refine ⟨allInstrs.map encode, allInstrs_nodup.map encode_injective, ?_, fun c => ?_⟩
    · rw [List.length_map, allInstrs_length]
    · simp [mem_allInstrs, decode_eq_ok_iff]

/-- Settles O4, by assembling the lines; the radius is rounded and packed on the way. -/
theorem assemblerExamples : Obligations.AssemblerExamples := by
  unfold Obligations.AssemblerExamples
  decide +kernel

end Sys2Proof

/-! # A live block: what a transition is, and the response that waits (30_encoding.md R56 to R58) -/

namespace Sys2Proof.Machine

/-! ### Transitions of a live block -/

theorem step_live {s : State} (hs : s.live) : step s = runBlock s := by
  obtain ⟨hrst, hseen⟩ := hs
  simp [step, transition, hrst, hseen]

theorem runCommand_of_decode {s : State} {i : Instr} (h : decode s.cmd = .ok i) :
    runCommand s = exec i s := by
  simp [runCommand, h]

theorem runBlock_responding {s : State} {r : Response} (hp : s.phase = .responding r) :
    runBlock s = .next (if s.rspReady then s.takeResponse r else s) := by
  simp [runBlock, hp]

/-- Settles O5: a live block runs the command it accepts, or the one it holds. -/
theorem stepRunsDecodedCommand : Obligations.StepRunsDecodedCommand := by
  intro s i hs
  rw [step_live hs]
  constructor
  · intro c rest hp hc hdec
    have haccept : runBlock s = runCommand (s.accept c rest) := by simp [runBlock, hp, hc]
    exact haccept.trans (runCommand_of_decode hdec)
  · intro hp hdec
    have hgo : runBlock s = runCommand s := by simp [runBlock, hp]
    exact hgo.trans (runCommand_of_decode hdec)

/-! ### The levels of the two channels in a live state -/

theorem cmdReady_live {s : State} (hs : s.live) : s.cmdReady = decide (s.phase = .idle) := by
  obtain ⟨hrst, hseen⟩ := hs
  simp [State.cmdReady, hrst, hseen]

theorem rspPort_responding {s : State} (hs : s.live) {r : Response}
    (hp : s.phase = .responding r) : s.rspPort = some r := by
  obtain ⟨hrst, hseen⟩ := hs
  simp [State.rspPort, hrst, hseen, hp]

theorem rspValid_idle {s : State} (hs : s.live) (hp : s.phase = .idle) : s.rspValid = false := by
  obtain ⟨hrst, hseen⟩ := hs
  simp [State.rspValid, State.rspPort, hseen, hp]

/-- Settles O7: the one transition of a waiting response in both levels of `rsp_ready`, and the
levels before and after it. -/
theorem responseHeldUntilTaken : Obligations.ResponseHeldUntilTaken := by
  intro s r hs hp
  have hstep := (step_live hs).trans (runBlock_responding hp)
  refine ⟨rspPort_responding hs hp, by simp [cmdReady_live hs, hp], fun hready => ?_,
    fun hready => ?_⟩
  · simpa [hready] using hstep
  · have htaken : (s.takeResponse r).live := hs
    refine ⟨hstep.trans (by rw [if_pos hready]; rfl), ?_, rspValid_idle htaken rfl⟩
    exact (cmdReady_live htaken).trans (by simp)

end Sys2Proof.Machine

/-! # Operand bits a command does not use (30_encoding.md R62)

With another operand that agrees in the used bits a command does the same and leaves that operand in
place: everything but the reading of the operand commutes with replacing it, and each reading
depends on the used bits alone. -/

namespace Sys2Proof.Machine

/-! ### Replacing the operand -/

/-- `s` with the operand `a`. -/
def State.withOperand (a : Word64) (s : State) : State := { s with arg := a }

theorem State.withOperand_self (s : State) : s.withOperand s.arg = s := rfl

section
variable (g : Gen) (F : Fmt) (a : Word64) (s : State)

@[simp] theorem State.withOperand_genOut : (s.withOperand a).genOut g = s.genOut g := by
  cases g <;> rfl

@[simp] theorem State.withOperand_advance :
    (s.withOperand a).advance g = (s.advance g).withOperand a := by
  cases g <;> rfl

@[simp] theorem State.withOperand_candidate :
    (s.withOperand a).candidate g F = s.candidate g F := by
  simp [State.candidate]

@[simp] theorem State.withOperand_afterIteration :
    (s.withOperand a).afterIteration g = (s.afterIteration g).withOperand a := by
  simp [State.afterIteration]

@[simp] theorem boundedInteger_withOperand (n : Word64) :
    boundedInteger g n (s.withOperand a) = (boundedInteger g n s).withOperand a := by
  cases g <;> rfl

theorem finishPoint_withOperand (factor : Fmt → Fp → Fp) (c : Candidate) :
    finishPoint F factor c (s.withOperand a) = (finishPoint F factor c s).withOperand a := by
  unfold finishPoint
  split <;> rfl

theorem finishScaled_withOperand (factor : Fmt → Fp → Fp) (c : Candidate)
    (h : (s.withOperand a).radius F = s.radius F) :
    finishScaled F factor c (s.withOperand a) = (finishScaled F factor c s).withOperand a := by
  unfold finishScaled
  rw [h]
  split <;> rfl

theorem diskLoop_withOperand (n : Nat) :
    diskLoop n g F (s.withOperand a) =
      ((diskLoop n g F s).1, (diskLoop n g F s).2.withOperand a) := by
  induction n generalizing s with
  | zero => rfl
  | succ n ih =>
    simp only [diskLoop, State.withOperand_candidate, State.withOperand_afterIteration, ih]
    split <;> rfl

end

/-! ### Readings of the operand -/

theorem toNat_mod_of_extract_eq {a b : Word64} (h : a.extractLsb' 0 32 = b.extractLsb' 0 32) :
    a.toNat % 2 ^ 32 = b.toNat % 2 ^ 32 := by
  simpa using congrArg BitVec.toNat h

theorem setWidth_of_extract_eq {a b : Word64} (h : a.extractLsb' 0 32 = b.extractLsb' 0 32) :
    a.setWidth 32 = b.setWidth 32 :=
  BitVec.eq_of_toNat_eq (by simpa using toNat_mod_of_extract_eq h)

theorem modulus_withOperand {g : Gen} {a : Word64} {s : State}
    (h : sameOperand (.uintn g) s.arg a) : (s.withOperand a).modulus g = s.modulus g := by
  cases g with
  | g32 => exact congrArg (BitVec.setWidth 64) (setWidth_of_extract_eq h).symm
  | g64 => exact Eq.symm h

/-- Of a binary32 the low 32 bits are read. -/
theorem radius_withOperand {g : Gen} {F : Fmt} {a : Word64} {s : State}
    (h : sameOperand (.gaussr g F) s.arg a) : (s.withOperand a).radius F = s.radius F := by
  cases F with
  | b32 =>
    have hlow : a.toNat % 2 ^ Fmt.b32.width = s.arg.toNat % 2 ^ Fmt.b32.width :=
      (toNat_mod_of_extract_eq h).symm
    simp only [State.radius, State.withOperand, Fp.unpack, hlow]
  | b64 => exact congrArg (Fp.unpack .b64) (Eq.symm h)

theorem sameOperand_expor {g : Gen} {F : Fmt} {a b : Word64} (h : sameOperand (.expor g F) a b) :
    sameOperand (.gaussr g F) a b := by
  cases F <;> exact h

/-! ### Commands -/

/-- From `s`, `f` does the same with the operand `a`, and keeps that operand. -/
def IgnoresOperand (a : Word64) (s : State) (f : State → Host.Outcome State Fault Refusal) :
    Prop :=
  ∀ t, f s = .next t → f (s.withOperand a) = .next (t.withOperand a)

theorem ignoresOperand_next {a : Word64} {s : State} {u : State → State}
    (hu : u (s.withOperand a) = (u s).withOperand a) : IgnoresOperand a s fun s => .next (u s) := by
  rintro _ ⟨⟩
  exact congrArg Host.Outcome.next hu

theorem ignoresOperand_withDisk {g : Gen} {F : Fmt} {finish : Candidate → State → State}
    {a : Word64} {s : State}
    (hfin : ∀ c u, u.arg = s.arg → finish c (u.withOperand a) = (finish c u).withOperand a) :
    IgnoresOperand a s (withDisk g F finish) := by
  intro t h
  unfold withDisk at h ⊢
  rw [diskLoop_withOperand]
  match hd : diskLoop Config.diskBurst g F s with
  | (some c, s') =>
    rw [hd] at h
    obtain rfl := Host.Outcome.next.inj h
    obtain ⟨k, -, -, -, rfl⟩ := diskLoop_some hd
    exact congrArg Host.Outcome.next
      (hfin c _ (sameInterface_afterIterations g (k + 1) s).arg)
  | (none, s') =>
    rw [hd] at h
    obtain rfl := Host.Outcome.next.inj h
    rfl

theorem ignoresOperand_of_eq {i : Instr} {a : Word64} {s : State} (h : s.arg = a) :
    IgnoresOperand a s (exec i) := by
  subst h
  intro t ht
  have harg : t.withOperand s.arg = t := by
    rw [← (exec_sameInterface ht).arg, State.withOperand_self]
  rw [State.withOperand_self, harg, ht]

theorem ignoresOperand_execUintn {g : Gen} {a : Word64} {s : State}
    (h : sameOperand (.uintn g) s.arg a) : IgnoresOperand a s (execUintn g) := by
  refine ignoresOperand_next ?_
  rw [modulus_withOperand h]
  split
  · rfl
  · exact boundedInteger_withOperand g a s (s.modulus g)

theorem ignoresOperand_scaled {g : Gen} {F : Fmt} (factor : Fmt → Fp → Fp) {a : Word64}
    {s : State} (h : sameOperand (.gaussr g F) s.arg a) :
    IgnoresOperand a s (withDisk g F (finishScaled F factor)) := by
  refine ignoresOperand_withDisk fun c u hu => finishScaled_withOperand F a u factor c ?_
  rw [← hu] at h
  exact radius_withOperand h

/-- Every command ignores the operand bits it does not use (30_encoding.md R62). -/
theorem exec_ignoresOperand {i : Instr} {a : Word64} {s : State} (h : sameOperand i s.arg a) :
    IgnoresOperand a s (exec i) := by
  cases i with
  | init32 | seed32 =>
    have hseed : (s.withOperand a).seed32 = s.seed32 := (setWidth_of_extract_eq h).symm
    exact ignoresOperand_next (by rw [hseed]; rfl)
  | init64 | seed64 | discard32 | discard64 => exact ignoresOperand_of_eq h
  | initd32 | initd64 | next32 | next64 | getmin | getmax => exact ignoresOperand_next rfl
  | uint g => exact ignoresOperand_next (boundedInteger_withOperand g a s (genMax g))
  | uintn g => exact ignoresOperand_execUintn h
  | real g F | realn g F | real2 g F | realn2 g F =>
    exact ignoresOperand_next (by cases g <;> rfl)
  | disk g F => exact ignoresOperand_withDisk fun c u _ => rfl
  | gauss g F =>
    exact ignoresOperand_withDisk fun c u _ => finishPoint_withOperand F a u gaussFactor c
  | expo g F =>
    exact ignoresOperand_withDisk fun c u _ => finishPoint_withOperand F a u expoFactor c
  | gaussr g F => exact ignoresOperand_scaled gaussFactor h
  | expor g F => exact ignoresOperand_scaled expoFactor (sameOperand_expor h)

/-- Settles O16, by `exec_ignoresOperand`. -/
theorem unusedOperandBitsIgnored : Obligations.UnusedOperandBitsIgnored :=
  fun _ _ t _ hsame hexec => exec_ignoresOperand hsame t hexec

end Sys2Proof.Machine

/-! # The invariant (30_encoding.md R63, 43_disk_gaussian_sampler.md R160, 60_exceptions.md R200)

A transition puts a response into the block only by running the command there, so the invariant
rests on one fact about each command: a response it ends with is one it may have. The size of binary32
results follows from every arithmetic result being canonical. -/

namespace Sys2Proof.Machine

/-! ### Binary32 results stand in the low 32 bits -/

theorem zero_fitsLow : fitsLow 0 := by
  unfold fitsLow
  decide

theorem encoding_fitsLow {neg : Bool} {E T : Nat} (hE : E < 2 ^ Fmt.b32.expBits)
    (hT : T < 2 ^ Fmt.b32.fracBits) : fitsLow (encoding .b32 neg E T) := by
  have hexp : 2 ^ Fmt.b32.expBits = 2 ^ 8 := rfl
  have hfrac : 2 ^ Fmt.b32.fracBits = 2 ^ 23 := rfl
  have hsign : (if neg then 2 ^ (Fmt.b32.width - 1) else 0) ≤ 2 ^ 31 := by cases neg <;> decide
  rw [hexp] at hE
  rw [hfrac] at hT
  unfold fitsLow encoding
  rw [BitVec.toNat_ofNat, hfrac]
  exact (Nat.mod_le _ _).trans_lt (by omega)

theorem nanEncoding_fitsLow (draw : Word64) : fitsLow (nanEncoding .b32 draw) := by
  refine encoding_fitsLow (by decide) ?_
  split
  · decide
  · exact Nat.mod_lt _ (by decide)

theorem pack_fin_fitsLow {neg : Bool} {m : Nat} {e : Int} (draw : Word64)
    (hm : m < 2 ^ Fmt.b32.precision) (he : e ≤ Fmt.b32.emax - Fmt.b32.fracBits) :
    fitsLow ((Fp.fin neg m e).pack .b32 draw) := by
  have hexp : 2 ^ Fmt.b32.expBits = 2 ^ 8 := rfl
  have hprec : 2 ^ Fmt.b32.precision = 2 ^ Fmt.b32.fracBits + 2 ^ Fmt.b32.fracBits := rfl
  have hmin : Fmt.b32.minQuantum = -149 := rfl
  have hmax : Fmt.b32.emax - Fmt.b32.fracBits = 104 := rfl
  simp only [Fp.pack]
  split
  · next hsub => exact encoding_fitsLow (by decide) hsub
  · exact encoding_fitsLow (by omega) (by omega)

theorem pack_fitsLow {v : Fp} (hv : v.canonical .b32) (draw : Word64) :
    fitsLow (v.pack .b32 draw) := by
  match v with
  | .nan => exact nanEncoding_fitsLow draw
  | .inf neg => exact encoding_fitsLow (by decide) (by decide)
  | .fin neg m e =>
    obtain ⟨hm, -, he, -⟩ := hv
    exact pack_fin_fitsLow draw hm he

theorem resultWord_fitsLow {F : Fmt} {v : Fp} (hv : v.canonical F) (n : Nat) (hF : F = .b32) :
    fitsLow (resultWord F n v) := by
  subst hF
  exact pack_fitsLow hv (Config.nanDraw n)

/-! ### Responses a command may give -/

/-- The commands whose result registers are all zero (30_encoding.md R63). -/
def silentInstrs : List Instr :=
  [.init32, .init64, .initd32, .initd64, .seed32, .seed64, .discard32, .discard64]

theorem fmt_of_mem_silentInstrs : ∀ i ∈ silentInstrs, i.fmt = none := by decide

/-- A response waiting in `t` is one the command `i` may have. -/
def State.Answers (i : Instr) (t : State) : Prop :=
  ∀ r, t.phase = .responding r → r.zeroUnlessOk ∧ r.fitsInstr i

theorem State.Answers.of_phase {i : Instr} {t : State} {r : Response}
    (ht : t.phase = .responding r) (hzero : r.zeroUnlessOk) (hfits : r.fitsInstr i) :
    t.Answers i := by
  intro q hq
  obtain rfl : r = q := Phase.responding.inj (ht.symm.trans hq)
  exact ⟨hzero, hfits⟩

/-- What is left to show of a response with status `OK` (30_encoding.md R63). -/
theorem answers_ok {i : Instr} {t : State} {r0 r1 r2 : Word64}
    (ht : t.phase = .responding ⟨.ok, r0, r1, r2⟩)
    (hsilent : i ∈ silentInstrs → r0 = 0)
    (hsingle : i.samplesDisk = false → r1 = 0 ∧ r2 = 0)
    (hpair : (∀ g F, i ≠ .disk g F) → r2 = 0)
    (hlow : i.fmt = some .b32 → fitsLow r0 ∧ fitsLow r1 ∧ fitsLow r2) : t.Answers i :=
  .of_phase ht (fun h => absurd rfl h)
    ⟨nofun, nofun, nofun, hsilent, hsingle, hpair, hlow⟩

/-- A fault is one the command may raise, and its result registers are zero (60_exceptions.md R190,
R200). -/
theorem answers_raise {i : Instr} {e : Exception} (s : State)
    (hillegal : e.status ≠ .illegalCommand)
    (hdivide : e.status = .divideByZero → ∃ g, i = .uintn g)
    (hdomain : e.status = .domainError → i.samplesDisk = true ∧ ∀ g F, i ≠ .disk g F) :
    (s.raise e).Answers i :=
  .of_phase (State.raise_phase e s) (fun _ => ⟨rfl, rfl, rfl⟩) ⟨hillegal, hdivide, hdomain,
    fun _ => rfl, fun _ => ⟨rfl, rfl⟩, fun _ => rfl,
    fun _ => ⟨zero_fitsLow, zero_fitsLow, zero_fitsLow⟩⟩

theorem answers_integer {i : Instr} (hfmt : i.fmt = none) {w : Word64}
    (hw : i ∈ silentInstrs → w = 0) (s : State) : (s.respond w 0 0).Answers i :=
  answers_ok (State.respond_phase w 0 0 s) hw (fun _ => ⟨rfl, rfl⟩) (fun _ => rfl)
    (by simp [hfmt])

section
variable {i : Instr} {F : Fmt} (hfmt : i.fmt = some F)
include hfmt

theorem eq_b32_of_fmt (h : i.fmt = some .b32) : F = .b32 :=
  Option.some.inj (hfmt.symm.trans h)

theorem not_mem_silentInstrs : i ∉ silentInstrs := fun h => by
  simpa [hfmt] using fmt_of_mem_silentInstrs i h

theorem answers_respondReal {v : Fp} (hv : v.canonical F) (s : State) :
    (s.respondReal F v).Answers i :=
  answers_ok (State.respondReal_phase F v s) (fun h => absurd h (not_mem_silentInstrs hfmt))
    (fun _ => ⟨rfl, rfl⟩) (fun _ => rfl)
    fun h => ⟨resultWord_fitsLow hv _ (eq_b32_of_fmt hfmt h), zero_fitsLow, zero_fitsLow⟩

theorem answers_respondPair (hloop : i.samplesDisk = true) {v0 v1 : Fp} (hv0 : v0.canonical F)
    (hv1 : v1.canonical F) (s : State) : (s.respondPair F v0 v1).Answers i :=
  answers_ok (State.respondPair_phase F v0 v1 s) (fun h => absurd h (not_mem_silentInstrs hfmt))
    (by simp [hloop]) (fun _ => rfl)
    fun h => ⟨resultWord_fitsLow hv0 _ (eq_b32_of_fmt hfmt h),
      resultWord_fitsLow hv1 _ (eq_b32_of_fmt hfmt h), zero_fitsLow⟩

end

theorem answers_respondTriple (g : Gen) {F : Fmt} {v0 v1 v2 : Fp} (hv0 : v0.canonical F)
    (hv1 : v1.canonical F) (hv2 : v2.canonical F) (s : State) :
    (s.respondTriple F v0 v1 v2).Answers (.disk g F) :=
  answers_ok (State.respondTriple_phase F v0 v1 v2 s)
    (fun h => absurd h (not_mem_silentInstrs (F := F) rfl))
    nofun (fun h => absurd rfl (h g F))
    fun h => ⟨resultWord_fitsLow hv0 _ (eq_b32_of_fmt rfl h),
      resultWord_fitsLow hv1 _ (eq_b32_of_fmt rfl h), resultWord_fitsLow hv2 _ (eq_b32_of_fmt rfl h)⟩

/-! ### Every command -/

theorem snorm_canonical (g : Gen) (F : Fmt) (v : Word64) : (snorm g F v).canonical F :=
  Fp.canonical_div F _ _

theorem unorm_canonical (g : Gen) (F : Fmt) (v : Word64) : (unorm g F v).canonical F :=
  Fp.canonical_div F _ _

/-- The commands whose squared radius must not be zero (60_exceptions.md R194). -/
structure IsTransform (i : Instr) (F : Fmt) : Prop where
  fmt : i.fmt = some F
  samplesDisk : i.samplesDisk = true
  ne_disk : ∀ g F, i ≠ .disk g F

theorem IsTransform.answers_domainError {i : Instr} {F : Fmt} (hi : IsTransform i F) (s : State) :
    (s.raise .domainError).Answers i :=
  answers_raise s nofun nofun fun _ => ⟨hi.samplesDisk, hi.ne_disk⟩

theorem IsTransform.answers_finishPoint {i : Instr} {F : Fmt} (hi : IsTransform i F)
    (factor : Fmt → Fp → Fp) (c : Candidate) (s : State) :
    (finishPoint F factor c s).Answers i := by
  unfold finishPoint
  split
  · exact hi.answers_domainError s
  · exact answers_respondPair hi.fmt hi.samplesDisk (Fp.canonical_mul F _ _)
      (Fp.canonical_mul F _ _) s

theorem IsTransform.answers_finishScaled {i : Instr} {F : Fmt} (hi : IsTransform i F)
    (factor : Fmt → Fp → Fp) (c : Candidate) (s : State) :
    (finishScaled F factor c s).Answers i := by
  unfold finishScaled
  split
  · exact hi.answers_domainError s
  · exact answers_respondPair hi.fmt hi.samplesDisk (Fp.canonical_mul F _ _)
      (Fp.canonical_mul F _ _) s

theorem answers_withDisk {i : Instr} {g : Gen} {F : Fmt} {finish : Candidate → State → State}
    (hfin : ∀ u v : State, (finish (u.candidate g F) v).Answers i) {s t : State}
    (h : withDisk g F finish s = .next t) : t.Answers i := by
  rcases withDisk_cases g F finish s with ⟨k, -, -, hrun⟩ | ⟨-, hrun⟩
  · obtain rfl := Host.Outcome.next.inj (hrun.symm.trans h)
    exact hfin _ _
  · obtain rfl := Host.Outcome.next.inj (hrun.symm.trans h)
    exact nofun

/-- A command answers as it may, if it has finished. -/
theorem exec_answers {i : Instr} {s t : State} (h : exec i s = .next t) : t.Answers i := by
  cases i with
  | init32 | init64 | initd32 | initd64 | seed32 | seed64 | discard32 | discard64 =>
    cases h
    exact answers_integer rfl (fun _ => rfl) _
  | next32 | next64 | getmin | getmax | uint =>
    cases h
    exact answers_integer rfl (by simp [silentInstrs]) _
  | uintn g =>
    cases h
    split
    · exact answers_raise s nofun (fun _ => ⟨g, rfl⟩) nofun
    · exact answers_integer rfl (by simp [silentInstrs]) _
  | real g F =>
    cases h
    exact answers_respondReal rfl (unorm_canonical g F _) _
  | realn g F =>
    cases h
    exact answers_respondReal rfl (snorm_canonical g F _) _
  | real2 g F | realn2 g F =>
    cases h
    exact answers_respondReal rfl (Fp.canonical_mul F _ _) _
  | disk g F =>
    exact answers_withDisk (fun u v => answers_respondTriple g (snorm_canonical g F _)
      (snorm_canonical g F _) (Fp.canonical_add F _ _) v) h
  | gauss g F | expo g F =>
    refine answers_withDisk (fun u v => IsTransform.answers_finishPoint ?_ _ (u.candidate g F) v) h
    exact ⟨rfl, rfl, nofun⟩
  | gaussr g F | expor g F =>
    refine answers_withDisk (fun u v => IsTransform.answers_finishScaled ?_ _ (u.candidate g F) v) h
    exact ⟨rfl, rfl, nofun⟩

theorem exec_executing {i : Instr} {s t : State} (h : exec i s = .next t)
    (ht : t.phase = .executing) : i.samplesDisk = true := by
  by_contra hi
  obtain ⟨u, hu, -, r, hr⟩ := exec_ends (by simpa using hi) s
  obtain rfl := Host.Outcome.next.inj (hu.symm.trans h)
  simp [hr] at ht

/-! ### Transitions -/

/-- Running the command in the block establishes the invariant: nothing of it is needed before but
what has been delivered. -/
theorem inv_of_runCommand {s t : State} (hdelivered : ∀ r ∈ s.received, r.zeroUnlessOk)
    (h : runCommand s = .next t) : t.Inv := by
  have hsame := runCommand_sameInterface h
  refine ⟨?_, ?_, hsame.received ▸ hdelivered⟩ <;> rw [hsame.cmd]
  · intro r hr
    unfold Response.fits
    rcases runCommand_cases s with ⟨i, hdec, hrun⟩ | ⟨e, hdec, hrun⟩
    · rw [hdec]
      exact exec_answers (hrun.symm.trans h) r hr
    · obtain rfl := Host.Outcome.next.inj (hrun.symm.trans h)
      obtain rfl := Phase.responding.inj hr
      rw [hdec]
      exact ⟨fun _ => ⟨rfl, rfl, rfl⟩, rfl⟩
  · intro ht
    rcases runCommand_cases s with ⟨i, hdec, hrun⟩ | ⟨e, -, hrun⟩
    · exact ⟨i, hdec, exec_executing (hrun.symm.trans h) ht⟩
    · obtain rfl := Host.Outcome.next.inj (hrun.symm.trans h)
      simp at ht

theorem inv_of_idle {s : State} (hp : s.phase = .idle)
    (hdelivered : ∀ r ∈ s.received, r.zeroUnlessOk) : s.Inv :=
  ⟨by simp [hp], by simp [hp], hdelivered⟩

theorem inv_takeResponse {s : State} (hs : s.Inv) {r : Response} (hp : s.phase = .responding r) :
    (s.takeResponse r).Inv := by
  refine inv_of_idle rfl fun q hq => ?_
  rcases List.mem_append.1 hq with hold | hnew
  · exact hs.delivered q hold
  · obtain rfl := List.mem_singleton.1 hnew
    obtain ⟨hzero, -⟩ := hs.waiting q hp
    exact hzero

/-- Settles O13: along `step_cases`, a transition empties the block, changes nothing, runs a command
or takes the response. -/
theorem stepKeepsInv : Obligations.StepKeepsInv := by
  intro s t hs h
  have hnext {u : State} (hstep : step s = .next u) : t = u :=
    (Host.Outcome.next.inj (hstep.symm.trans h)).symm
  rcases step_cases s with ⟨-, hstep⟩ | ⟨-, -, -, hstep⟩ | ⟨-, -, -, hstep⟩ | ⟨-, -, -, hstep⟩ |
    ⟨c, rest, -, -, -, hstep⟩ | ⟨-, -, hstep⟩ | ⟨r, -, hp, -, hstep⟩ | ⟨r, -, -, -, hstep⟩
  · exact hnext hstep ▸ inv_of_idle (State.resetBlock_phase s) hs.delivered
  · exact hnext hstep ▸ hs
  · exact nomatch hstep.symm.trans h
  · exact hnext hstep ▸ hs
  · exact inv_of_runCommand (s := s.accept c rest) hs.delivered (hstep.symm.trans h)
  · exact inv_of_runCommand hs.delivered (hstep.symm.trans h)
  · exact hnext hstep ▸ inv_takeResponse hs hp
  · exact hnext hstep ▸ hs

end Sys2Proof.Machine

/-! # The bit generators as pure machines (40_bit_generators.md R81 to R98)

A word mixed with its own shift determines the word, because the shift is nilpotent; so the mixing
steps lose nothing, and neither does a step of either generator. The index of `xorshift_prng_64`
moves by one a step, which dates every read and every write of a word. -/

namespace Sys2Proof.Machine

/-! ### A word mixed with its shift -/

/-- Where `T` respects XOR and some iterate of it is 0, two words with the same `v ^^^ T v` differ by
a fixed point of `T`, and 0 is the only one. -/
theorem xor_injective_of_nilpotent {w n : Nat} {T : BitVec w → BitVec w}
    (hadd : ∀ a b, T (a ^^^ b) = T a ^^^ T b) (hnil : ∀ v, T^[n] v = 0) :
    Function.Injective fun v => v ^^^ T v := by
  intro a b h
  have hfix : T (a ^^^ b) = a ^^^ b := by
    refine (BitVec.xor_eq_zero_iff.1 ?_).symm
    calc (a ^^^ b) ^^^ T (a ^^^ b)
        = (a ^^^ T a) ^^^ (b ^^^ T b) := by rw [hadd]; ac_rfl
      _ = 0 := BitVec.xor_eq_zero_iff.2 h
  exact BitVec.xor_eq_zero_iff.1 ((Function.iterate_fixed hfix n).symm.trans (hnil _))

theorem iterate_shiftLeft {w : Nat} (k n : Nat) (v : BitVec w) :
    (fun v : BitVec w => v <<< k)^[n] v = v <<< (k * n) := by
  induction n with
  | zero => simp
  | succ n ih => rw [Function.iterate_succ_apply', ih, ← BitVec.shiftLeft_add, Nat.mul_succ]

theorem iterate_ushiftRight {w : Nat} (k n : Nat) (v : BitVec w) :
    (fun v : BitVec w => v >>> k)^[n] v = v >>> (k * n) := by
  induction n with
  | zero => simp
  | succ n ih => rw [Function.iterate_succ_apply', ih, ← BitVec.shiftRight_add, Nat.mul_succ]

theorem xor_shiftLeft_injective {w k : Nat} (hk : 0 < k) :
    Function.Injective fun v : BitVec w => v ^^^ (v <<< k) :=
  xor_injective_of_nilpotent (n := w) (fun a b => BitVec.shiftLeft_xor_distrib a b k) fun v =>
    (iterate_shiftLeft k w v).trans (BitVec.shiftLeft_eq_zero (Nat.le_mul_of_pos_left w hk))

theorem xor_ushiftRight_injective {w k : Nat} (hk : 0 < k) :
    Function.Injective fun v : BitVec w => v ^^^ (v >>> k) :=
  xor_injective_of_nilpotent (n := w) (fun a b => BitVec.ushiftRight_xor_distrib a b k) fun v =>
    (iterate_ushiftRight k w v).trans (BitVec.ushiftRight_eq_zero (Nat.le_mul_of_pos_left w hk))

/-! ### `xorshift_prng_32` -/

theorem finite_G32 : Finite G32 :=
  .of_injective (fun g => (g.x.toFin, g.y.toFin, g.z.toFin, g.w.toFin)) fun g h e => by
    obtain ⟨x, y, z, w⟩ := g
    obtain ⟨x', y', z', w'⟩ := h
    simpa only [Prod.mk.injEq, BitVec.toFin_inj, G32.mk.injEq] using e

/-- Three words are moved, and the fourth is `x` mixed twice, under XOR with a function of `w`. -/
theorem G32.step_injective : Function.Injective G32.step := by
  intro g h e
  obtain ⟨x, y, z, w⟩ := g
  obtain ⟨x', y', z', w'⟩ := h
  simp only [G32.step, G32.mk.injEq] at e
  obtain ⟨rfl, rfl, rfl, hnew⟩ := e
  have ht := xor_ushiftRight_injective (by decide) ((BitVec.xor_right_inj _).1 hnew)
  obtain rfl := xor_shiftLeft_injective (by decide) ht
  rfl

theorem G32.step_bijective : Function.Bijective G32.step :=
  have := finite_G32
  Finite.injective_iff_bijective.1 G32.step_injective

theorem G32.step_zero : G32.step ⟨0, 0, 0, 0⟩ = ⟨0, 0, 0, 0⟩ := by decide

/-- Settles O29: zero is a fixed point of an injective step, so what is not zero stays so. -/
theorem g32StepBijectiveNeverZero : Obligations.G32StepBijectiveNeverZero := by
  refine ⟨G32.step_bijective, fun g => ⟨fun h => ?_, fun h => h ▸ G32.step_zero⟩,
    fun seed n h => ?_⟩
  · exact G32.step_injective (h.trans G32.step_zero.symm)
  · have hzero := Function.iterate_fixed G32.step_zero n
    have hinit : G32.init seed = ⟨0, 0, 0, 0⟩ := G32.step_injective.iterate n (h.trans hzero.symm)
    exact absurd (congrArg G32.y hinit) (by simp [G32.init])

/-! ### `xorshift_prng_64`: the index -/

theorem nextIndex_eq_and (i : Index) : nextIndex i = (i + 1) &&& 15 := BitVec.and_allOnes.symm

theorem nextIndex_injective : Function.Injective nextIndex := add_left_injective 1

theorem ne_nextIndex (i : Index) : i ≠ nextIndex i := by simp [nextIndex]

theorem G64.iterate_step_p (n : Nat) (g : G64) : (G64.step^[n] g).p = g.p + BitVec.ofNat 4 n := by
  induction n with
  | zero => simp
  | succ n ih =>
    rw [Function.iterate_succ_apply', G64.step_p, ih, nextIndex, BitVec.ofNat_add, add_assoc]
    rfl

theorem G64.iterate_step_p_toNat (n : Nat) (g : G64) :
    (G64.step^[n] g).p.toNat = (g.p.toNat + n) % 16 := by
  simp [G64.iterate_step_p]

/-! ### `xorshift_prng_64`: the array -/

theorem mixMoved_injective : Function.Injective mixMoved :=
  (xor_ushiftRight_injective (k := 11) (by decide)).comp
    (xor_shiftLeft_injective (k := 31) (by decide))

theorem mixFirst_zero : mixFirst 0 = 0 := by decide

theorem mixMoved_zero : mixMoved 0 = 0 := by decide

theorem G64.step_word_next_of_zero {g : G64} (h : g.word g.p = 0) :
    g.step.word (nextIndex g.p) = mixMoved (g.word (nextIndex g.p)) := by
  rw [g.step_word_next, h, mixFirst_zero]
  exact BitVec.zero_xor

theorem finite_G64 : Finite G64 :=
  .of_injective (fun g => (g.p.toFin, fun i : Fin 16 => (g.word (.ofFin i)).toFin)) fun g h e => by
    obtain ⟨hp, hw⟩ := Prod.mk.inj e
    exact G64.ext_words (BitVec.toFin_inj.1 hp) fun i => BitVec.toFin_inj.1 (congrFun hw i.toFin)

/-- The index tells which word was written; the others stand as they were, among them the first of
the two words read, and so the second is known too. -/
theorem G64.step_injective : Function.Injective G64.step := by
  intro g h e
  have hp : g.p = h.p := nextIndex_injective (congrArg G64.p e)
  have hother : ∀ i, i ≠ nextIndex g.p → g.word i = h.word i := fun i hi => by
    rw [← g.step_word_other hi, e, h.step_word_other (hp ▸ hi)]
  have hnext : g.word (nextIndex g.p) = h.word (nextIndex g.p) := by
    have hstored := g.step_word_next
    rw [e, hp, h.step_word_next, ← hp, hother g.p (ne_nextIndex g.p), BitVec.xor_right_inj]
      at hstored
    exact (mixMoved_injective hstored).symm
  refine G64.ext_words hp fun i => ?_
  by_cases hi : i = nextIndex g.p
  · rw [hi, hnext]
  · exact hother i hi

theorem G64.step_bijective : Function.Bijective G64.step :=
  have := finite_G64
  Finite.injective_iff_bijective.1 G64.step_injective

/-- A step neither makes an array all zero nor ends its being so (40_bit_generators.md R97). -/
theorem G64.step_words_zero_iff (g : G64) :
    (∀ i, g.step.word i = 0) ↔ ∀ i, g.word i = 0 := by
  constructor
  · intro h
    have hother : ∀ i, i ≠ nextIndex g.p → g.word i = 0 := fun i hi =>
      (g.step_word_other hi).symm.trans (h i)
    have hnext : g.word (nextIndex g.p) = 0 := by
      refine mixMoved_injective ?_
      rw [← G64.step_word_next_of_zero (hother g.p (ne_nextIndex g.p)), h, mixMoved_zero]
    intro i
    by_cases hi : i = nextIndex g.p
    · rw [hi, hnext]
    · exact hother i hi
  · intro h i
    by_cases hi : i = nextIndex g.p
    · rw [hi, G64.step_word_next_of_zero (h _), h, mixMoved_zero]
    · rw [g.step_word_other hi, h]

theorem G64.iterate_step_words_zero_iff (n : Nat) (g : G64) :
    (∀ i, (G64.step^[n] g).word i = 0) ↔ ∀ i, g.word i = 0 := by
  induction n with
  | zero => rfl
  | succ n ih => rw [Function.iterate_succ_apply', G64.step_words_zero_iff, ih]

/-! ### `xorshift_prng_64`: construction -/

theorem G64.seeded_p (seed : Word64) : (G64.seeded seed).p = seed.extractLsb' 0 4 :=
  BitVec.setWidth_eq_extractLsb' (v := 64) (w := 4) (by decide)

theorem G64.seeded_word (seed : Word64) (i : Index) :
    (G64.seeded seed).word i = if i = 0 then seed else 0 := by
  have hreplicate : (⟨(G64.seeded seed).p, .replicate 16 0⟩ : G64).word i = 0 := by
    simp [G64.word]
  rw [← hreplicate]
  exact G64.word_setWord ⟨(G64.seeded seed).p, .replicate 16 0⟩ 0 i seed

theorem G64.seeded_words_zero_iff (seed : Word64) :
    (∀ i, (G64.seeded seed).word i = 0) ↔ seed = 0 := by
  simp [G64.seeded_word]

/-- Construction is as many steps as the low byte says (40_bit_generators.md R92). -/
theorem G64.init_eq_iterate (seed : Word64) :
    G64.init seed = G64.step^[seed.toNat % 256] (G64.seeded seed) := by
  rw [G64.init, G64.steps_eq_iterate, warmUpCount_eq]

/-- Each warm-up step moves the index, and there are as many as the seed says, modulo 16
(40_bit_generators.md R92, corner case (d)). -/
theorem G64.init_p (seed : Word64) : (G64.init seed).p = 2 * seed.extractLsb' 0 4 := by
  have hcount : BitVec.ofNat 4 (seed.toNat % 256) = seed.extractLsb' 0 4 := by
    refine BitVec.eq_of_toNat_eq ?_
    simp only [BitVec.toNat_ofNat, BitVec.extractLsb'_toNat, Nat.shiftRight_zero]
    omega
  rw [G64.init_eq_iterate, G64.iterate_step_p, G64.seeded_p, hcount, two_mul]

/-- A seed with a zero low byte has no warm-up (40_bit_generators.md R98). -/
theorem G64.init_of_lowByte_zero {seed : Word64} (h : seed &&& 255 = 0) :
    G64.init seed = G64.seeded seed := by
  rw [G64.init, warmUpCount, h]
  rfl

theorem G64.seeded_p_of_lowByte_zero {seed : Word64} (h : seed &&& 255 = 0) :
    (G64.seeded seed).p = 0 := by
  calc (G64.seeded seed).p = (seed &&& 255).setWidth 4 :=
        (BitVec.setWidth_and.trans BitVec.and_allOnes).symm
    _ = 0 := by rw [h]; decide

/-- Settles O30: nothing is lost in a step, and the zeros of an array are kept and reflected. -/
theorem g64StepBijectiveZeroFixed : Obligations.G64StepBijectiveZeroFixed := by
  refine ⟨G64.step_bijective, fun g h => ⟨?_, g.step_words_zero_iff.2 h⟩, fun seed => ?_⟩
  · rw [G64.out, g.step_words_zero_iff.2 h, zero_mul]
  · rw [G64.init_eq_iterate, G64.iterate_step_words_zero_iff, G64.seeded_words_zero_iff]

/-! ### `xorshift_prng_64`: the output -/

/-- The inverse of the output multiplier modulo `2^64`. -/
def mult64Inverse : Word64 := 13515856136758413469

theorem mult64_mul_inverse : mult64 * mult64Inverse = 1 := by decide

theorem mul_mult64_bijective : Function.Bijective fun v : Word64 => v * mult64 := by
  refine Function.bijective_iff_has_inverse.2 ⟨fun v => v * mult64Inverse, fun v => ?_, fun v => ?_⟩
  · simp only [mul_assoc, mult64_mul_inverse, mul_one]
  · simp only [mul_assoc, mul_comm mult64Inverse, mult64_mul_inverse, mul_one]

/-- Settles O31: the multiplier is odd, so it has an inverse, and only 0 is multiplied to 0. -/
theorem g64OutputBijectiveInStoredWord : Obligations.G64OutputBijectiveInStoredWord := by
  refine ⟨mul_mult64_bijective, fun g => ?_⟩
  have hzero : (0 : Word64) * mult64 = 0 := zero_mul mult64
  exact ⟨fun h => mul_mult64_bijective.injective (h.trans hzero.symm),
    fun h => by rw [G64.out, h, hzero]⟩

/-! ### `xorshift_prng_64`: re-seeding -/

theorem G64.word_reseed (g : G64) (v : Word64) (i : Index) :
    (g.reseed v).word i = if i = 0 then v else g.word i :=
  g.word_setWord 0 i v

section
variable {g : G64} (v : Word64) (hp : g.p ≠ 0) (hq : nextIndex g.p ≠ 0)
include hp hq

/-- A step that reads and writes other words than word 0 stores what it would have stored. -/
theorem G64.step_reseed_word_next :
    (g.reseed v).step.word (nextIndex g.p) = g.step.word (nextIndex g.p) := by
  refine (g.reseed v).step_word_next.trans ?_
  rw [G64.reseed, G64.setWord_p, ← G64.reseed, G64.word_reseed, if_neg hp, G64.word_reseed,
    if_neg hq, G64.step_word_next]

theorem G64.out_reseed : (g.reseed v).out = g.out :=
  congrArg (· * mult64) (G64.step_reseed_word_next v hp hq)

theorem G64.step_reseed : (g.reseed v).step = g.step.reseed v := by
  refine G64.ext_words rfl fun i => ?_
  by_cases hi : i = nextIndex g.p
  · subst hi
    rw [G64.step_reseed_word_next v hp hq, G64.word_reseed, if_neg hq]
  · have hother : (g.reseed v).step.word i = (g.reseed v).word i := (g.reseed v).step_word_other hi
    rw [hother, G64.word_reseed, G64.word_reseed, g.step_word_other hi]

end

theorem G64.iterate_step_p_ne_zero {g : G64} {n : Nat} (hp : g.p ≠ 0) (hn : n < 16 - g.p.toNat) :
    (G64.step^[n] g).p ≠ 0 := by
  have hpos : g.p.toNat ≠ 0 := fun h => hp (BitVec.eq_of_toNat_eq h)
  intro h
  have hmod := g.iterate_step_p_toNat n
  rw [h, Nat.mod_eq_of_lt (by omega)] at hmod
  simp at hmod
  omega

/-- Step number `n + 1` neither reads nor writes word 0, as long as the index stays below 16. -/
theorem G64.iterate_step_avoids_zero {g : G64} {n : Nat} (hp : g.p ≠ 0)
    (hn : n + 1 < 16 - g.p.toNat) :
    (G64.step^[n] g).p ≠ 0 ∧ nextIndex (G64.step^[n] g).p ≠ 0 := by
  rw [← G64.step_p, ← Function.iterate_succ_apply' G64.step]
  exact ⟨G64.iterate_step_p_ne_zero hp (Nat.lt_of_succ_lt hn), G64.iterate_step_p_ne_zero hp hn⟩

/-- Until the index comes round to word 0, a re-seed commutes with the steps (40_bit_generators.md
R94). -/
theorem G64.iterate_step_reseed {g : G64} (v : Word64) {n : Nat} (hp : g.p ≠ 0)
    (hn : n < 16 - g.p.toNat) : G64.step^[n] (g.reseed v) = (G64.step^[n] g).reseed v := by
  induction n with
  | zero => rfl
  | succ n ih =>
    obtain ⟨hread, hwritten⟩ := G64.iterate_step_avoids_zero hp hn
    rw [Function.iterate_succ_apply', ih (Nat.lt_of_succ_lt hn), G64.step_reseed v hread hwritten,
      Function.iterate_succ_apply']

/-- Settles O32: the steps before the output commute with the re-seed, and so does its own step. -/
theorem reseedTakesEffectLate : Obligations.ReseedTakesEffectLate := by
  intro g v n hp hn
  obtain ⟨hread, hwritten⟩ := G64.iterate_step_avoids_zero hp hn
  rw [G64.iterate_step_reseed v hp (Nat.lt_of_succ_lt hn), G64.out_reseed v hread hwritten]

/-- Settles O33: without a warm-up both sides are the array that is zero but for word 0, at index
0. -/
theorem reseedEqualsConstructionSometimes : Obligations.ReseedEqualsConstructionSometimes := by
  intro S V hS hV
  rw [G64.init_of_lowByte_zero hS, G64.init_of_lowByte_zero hV]
  refine G64.ext_words ?_ fun i => ?_
  · exact (G64.seeded_p_of_lowByte_zero hS).trans (G64.seeded_p_of_lowByte_zero hV).symm
  · simp only [G64.word_reseed, G64.seeded_word]
    split <;> rfl

end Sys2Proof.Machine

/-! # The commands of the generator family (40_bit_generators.md R82 to R103) -/

namespace Sys2Proof.Machine

/-! ### `INIT`, `INITD`, `SEED`, `GETMIN`, `GETMAX` -/

/-- Settles O18: the low 32 operand bits are the seed. -/
theorem init32Constructs : Obligations.Init32Constructs := by
  refine ⟨decode_eq_ok_iff.2 (by decide), fun s => ?_⟩
  rw [← BitVec.setWidth_eq_extractLsb' (by decide)]
  rfl

/-- Settles O19: `INITD.32` and reset construct with the same seed. -/
theorem initd32Constructs : Obligations.Initd32Constructs :=
  ⟨decode_eq_ok_iff.2 (by decide), fun _ => ⟨rfl, rfl⟩⟩

/-- Settles O20: the low 32 operand bits are the new `x`. -/
theorem seed32WritesPrimaryWord : Obligations.Seed32WritesPrimaryWord := by
  refine ⟨decode_eq_ok_iff.2 (by decide), fun s => ?_⟩
  rw [← BitVec.setWidth_eq_extractLsb' (by decide)]
  rfl

/-- Settles O23: the array before the warm-up is `G64.seeded`. -/
theorem init64ConstructsAndWarmsUp : Obligations.Init64ConstructsAndWarmsUp := by
  refine ⟨decode_eq_ok_iff.2 (by decide), fun s => ⟨G64.seeded s.arg, G64.seeded_p s.arg, ?_, ?_⟩⟩
  · rw [G64.seeded_word, if_pos rfl]
  · rw [← G64.init_eq_iterate]
    exact ⟨fun i hi => by rw [G64.seeded_word, if_neg hi], rfl, G64.init_p s.arg⟩

/-- Settles O24: `INITD.64`, `INIT.64` with the default seed and reset are one construction. -/
theorem initd64Constructs : Obligations.Initd64Constructs := by
  refine ⟨decode_eq_ok_iff.2 (by decide), ?_, by decide +kernel, fun s => ⟨rfl, rfl⟩⟩
  exact (G64.init_p _).trans (by decide)

/-- Settles O25: re-seeding is a write of word 0. -/
theorem seed64WritesWordZero : Obligations.Seed64WritesWordZero := by
  refine ⟨decode_eq_ok_iff.2 (by decide), fun s =>
    ⟨s.g64.reseed s.arg, rfl, ?_, fun i hi => ?_, rfl⟩⟩
  · rw [G64.word_reseed, if_pos rfl]
  · rw [G64.word_reseed, if_neg hi]

/-- Settles O28: the two queries only respond. -/
theorem queriesReturnConstants : Obligations.QueriesReturnConstants := by
  simp only [Obligations.QueriesReturnConstants, decode_eq_ok_iff]
  refine ⟨by decide, by decide, by decide, by decide, fun s => ⟨fun g => ?_, rfl, rfl⟩⟩
  cases g <;> rfl

/-! ### `NEXT` -/

/-- Settles O21: R81 is the step of the model. -/
theorem next32StepsAndReturns : Obligations.Next32StepsAndReturns :=
  ⟨decode_eq_ok_iff.2 (by decide), fun _ => rfl⟩

theorem exec_next64 (s : State) : exec .next64 s = .next { s with
    g64 := s.g64.step
    phase := .responding ⟨.ok, (mixFirst (s.g64.word s.g64.p) ^^^
      mixMoved (s.g64.word (nextIndex s.g64.p))) * mult64, 0, 0⟩ } := by
  rw [← G64.out_eq]
  rfl

/-- Settles O26: what a step stores and leaves is said by the laws of `G64.step`, the response by
`exec_next64`. -/
theorem next64StepsAndReturns : Obligations.Next64StepsAndReturns := by
  refine ⟨decode_eq_ok_iff.2 (by decide), fun s => ?_⟩
  rw [← nextIndex_eq_and]
  exact ⟨s.g64.step, rfl, s.g64.step_word_next, fun i hi => s.g64.step_word_other hi, exec_next64 s⟩

/-! ### `DISCARD` -/

theorem exec_discard32 (s : State) : exec .discard32 s = .next { s with
    g32 := G32.step^[s.arg.toNat] s.g32
    phase := .responding ⟨.ok, 0, 0, 0⟩ } := by
  rw [← G32.steps_eq_iterate]
  rfl

theorem exec_discard64 (s : State) : exec .discard64 s = .next { s with
    g64 := G64.step^[s.arg.toNat] s.g64
    phase := .responding ⟨.ok, 0, 0, 0⟩ } := by
  rw [← G64.steps_eq_iterate]
  rfl

/-- Settles O22, by `exec_discard32`. -/
theorem discard32RepeatsStep : Obligations.Discard32RepeatsStep :=
  ⟨decode_eq_ok_iff.2 (by decide), exec_discard32⟩

/-- Settles O27: every step moves the index by one. -/
theorem discard64RepeatsStep : Obligations.Discard64RepeatsStep :=
  ⟨decode_eq_ok_iff.2 (by decide), fun s =>
    ⟨exec_discard64 s, s.g64.iterate_step_p_toNat s.arg.toNat⟩⟩

/-! ### `DISCARD` and `NEXT` (40_bit_generators.md R103)

Both commands make steps of their generator and respond, and a response touches no generator. -/

theorem iterate_advance_g32 (n : Nat) (s : State) :
    (State.advance .g32)^[n] s = { s with g32 := G32.step^[n] s.g32 } := by
  induction n with
  | zero => rfl
  | succ n ih => rw [Function.iterate_succ_apply', ih, Function.iterate_succ_apply']; rfl

theorem iterate_advance_g64 (n : Nat) (s : State) :
    (State.advance .g64)^[n] s = { s with g64 := G64.step^[n] s.g64 } := by
  induction n with
  | zero => rfl
  | succ n ih => rw [Function.iterate_succ_apply', ih, Function.iterate_succ_apply']; rfl

/-- The command `i` is `NEXT` of the generator `g`. -/
def IsNext (g : Gen) (i : Instr) : Prop :=
  ∀ s, exec i s = .next ((s.advance g).respond (s.stepOut g) 0 0)

/-- The command `d` is `DISCARD` of the generator `g`. -/
def IsDiscard (g : Gen) (d : Instr) : Prop :=
  ∀ s, exec d s = .next (((State.advance g)^[s.arg.toNat] s).respond 0 0 0)

theorem isNext_next32 : IsNext .g32 .next32 := fun _ => rfl

theorem isNext_next64 : IsNext .g64 .next64 := fun _ => rfl

theorem isDiscard_discard32 : IsDiscard .g32 .discard32 := fun s => by
  rw [exec_discard32, iterate_advance_g32]
  rfl

theorem isDiscard_discard64 : IsDiscard .g64 .discard64 := fun s => by
  rw [exec_discard64, iterate_advance_g64]
  rfl

theorem advance_commute_respond (g : Gen) (r0 r1 r2 : Word64) :
    Function.Commute (State.advance g) (State.respond r0 r1 r2) := fun s => by cases g <;> rfl

@[simp] theorem State.respond_stepOut (g : Gen) (r0 r1 r2 : Word64) (s : State) :
    (s.respond r0 r1 r2).stepOut g = s.stepOut g := by cases g <;> rfl

/-- From a state that holds a response `NEXT` does what it does from the one before it. -/
theorem IsNext.exec_respond {g : Gen} {i : Instr} (hi : IsNext g i) (r0 r1 r2 : Word64)
    (s : State) : exec i (s.respond r0 r1 r2) = exec i s := by
  rw [hi, hi, State.respond_stepOut, (advance_commute_respond g r0 r1 r2).eq s]
  rfl

/-- Of several commands `NEXT` the last one shows: the others have only made their steps. -/
theorem IsNext.repeatExec_succ {g : Gen} {i : Instr} (hi : IsNext g i) (n : Nat) (s : State) :
    repeatExec i (n + 1) s = exec i ((State.advance g)^[n] s) := by
  induction n generalizing s with
  | zero => rw [repeatExec, Function.iterate_zero, id, hi]; rfl
  | succ n ih =>
    calc repeatExec i (n + 1 + 1) s
        = repeatExec i (n + 1) ((s.advance g).respond (s.stepOut g) 0 0) := by
          rw [repeatExec, hi]
      _ = exec i (((State.advance g)^[n] (s.advance g)).respond (s.stepOut g) 0 0) := by
          rw [ih, ((advance_commute_respond g (s.stepOut g) 0 0).iterate_left n).eq]
      _ = exec i ((State.advance g)^[n + 1] s) := by
          rw [hi.exec_respond, Function.iterate_succ_apply]

theorem discard_then_next {g : Gen} {i d : Instr} (hi : IsNext g i) (hd : IsDiscard g d)
    (s : State) :
    ∃ t u, exec d s = .next t ∧ exec i t = .next u ∧
      repeatExec i (s.arg.toNat + 1) s = .next u :=
  ⟨_, _, hd s, (hi.exec_respond 0 0 0 _).trans (hi _), (hi.repeatExec_succ _ s).trans (hi _)⟩

/-- Settles O34, by `discard_then_next` for either generator. -/
theorem discardAgreesWithConsumption : Obligations.DiscardAgreesWithConsumption := fun s =>
  ⟨discard_then_next isNext_next32 isDiscard_discard32 s,
    discard_then_next isNext_next64 isDiscard_discard64 s⟩

end Sys2Proof.Machine

/-! # Bounded integers (41_uniform_int_sampler.md R112, R113)

Both commands are one reduction of an output. With the default modulus an output is at most the
modulus itself, so the remainder is the output below it and 0 at it. -/

namespace Sys2Proof.Machine

/-! ### The modulus -/

theorem State.modulus_g32_toNat (s : State) : (s.modulus .g32).toNat = s.arg.toNat % 2 ^ 32 := by
  simp only [State.modulus, BitVec.toNat_setWidth]
  exact Nat.mod_eq_of_lt (by omega)

theorem State.modulus_g64_toNat (s : State) : (s.modulus .g64).toNat = s.arg.toNat := rfl

/-! ### The reduction -/

/-- The one reduction reads the output itself: the mask of `gen(G)` is the identity (R111). -/
theorem boundedInteger_eq (g : Gen) (n : Word64) (s : State) :
    boundedInteger g n s = (s.advance g).respond (s.stepOut g % n) 0 0 := by
  rw [boundedInteger, State.genOut_eq_stepOut]

theorem State.stepOut_umod_genMax (g : Gen) (s : State) :
    s.stepOut g % genMax g = if s.stepOut g = genMax g then 0 else s.stepOut g := by
  split
  case isTrue hmax => exact hmax ▸ BitVec.umod_self
  case isFalse hmax =>
    have hle : s.stepOut g ≤ genMax g := s.stepOut_le_genMax g
    exact BitVec.umod_eq_of_lt (BitVec.lt_of_le_ne hle hmax)

/-! ### The commands -/

/-- Settles O35, by `State.stepOut_umod_genMax`. -/
theorem uintReducesByMaximum : Obligations.UintReducesByMaximum := by
  refine ⟨decode_eq_ok_iff.2 (by decide), decode_eq_ok_iff.2 (by decide), fun g s => ?_⟩
  rw [← State.stepOut_umod_genMax]
  exact congrArg Host.Outcome.next (boundedInteger_eq g (genMax g) s)

section
variable {g : Gen} {n : Nat} {s : State}

theorem exec_uintn_of_modulus_ne_zero (hn : (s.modulus g).toNat = n) (h : n ≠ 0) :
    exec (.uintn g) s = .next ((s.advance g).respond
      (BitVec.ofNat 64 ((s.stepOut g).toNat % n)) 0 0) := by
  have hne : s.modulus g ≠ 0 := fun h0 => h (by rw [← hn, h0]; rfl)
  have hrem : BitVec.ofNat 64 ((s.stepOut g).toNat % n) = s.stepOut g % s.modulus g := by
    rw [← hn, ← BitVec.toNat_umod, BitVec.ofNat_toNat, BitVec.setWidth_eq]
  rw [hrem, ← boundedInteger_eq]
  exact congrArg Host.Outcome.next (if_neg hne)

theorem exec_uintn_of_modulus_eq_zero (hn : (s.modulus g).toNat = n) (h : n = 0) :
    exec (.uintn g) s = .next (s.raise .divideByZero) := by
  have hz : s.modulus g = 0 := BitVec.eq_of_toNat_eq (hn.trans h)
  exact congrArg Host.Outcome.next (if_pos hz)

end

/-- Settles O36: each generator has its own reading of the modulus. -/
theorem uintnReducesByModulus : Obligations.UintnReducesByModulus := by
  refine ⟨decode_eq_ok_iff.2 (by decide), decode_eq_ok_iff.2 (by decide), rfl, fun g s => ?_⟩
  cases g with
  | g32 =>
    exact ⟨exec_uintn_of_modulus_ne_zero s.modulus_g32_toNat,
      exec_uintn_of_modulus_eq_zero s.modulus_g32_toNat⟩
  | g64 =>
    exact ⟨exec_uintn_of_modulus_ne_zero s.modulus_g64_toNat,
      exec_uintn_of_modulus_eq_zero s.modulus_g64_toNat⟩

end Sys2Proof.Machine

/-! # Floating-point values as real numbers (42_fp_conversion_and_reals.md R126, R137) -/

namespace Sys2Proof.Machine

/-! ### The real number of a finite value -/

theorem Fp.isReal_fin (neg : Bool) (m : Nat) (e : Int) :
    (Fp.fin neg m e).isReal ((if neg then -1 else 1) * (m : ℝ) * (2 : ℝ) ^ e) :=
  ⟨neg, m, e, rfl, rfl⟩

theorem Fp.isReal_fin_iff {neg : Bool} {m : Nat} {e : Int} {r : ℝ} :
    (Fp.fin neg m e).isReal r ↔ r = (if neg then -1 else 1) * (m : ℝ) * (2 : ℝ) ^ e := by
  constructor
  · rintro ⟨neg, m, e, ⟨⟩, hr⟩
    exact hr
  · rintro rfl
    exact Fp.isReal_fin neg m e

theorem Fp.not_isReal_nan (r : ℝ) : ¬ Fp.nan.isReal r := by rintro ⟨_, _, _, ⟨⟩, _⟩

theorem Fp.isReal.ne_nan {v : Fp} {x : ℝ} (hv : v.isReal x) : v ≠ .nan := by
  rintro rfl
  exact Fp.not_isReal_nan x hv

theorem Fp.not_isReal_inf (neg : Bool) (r : ℝ) : ¬ (Fp.inf neg).isReal r := by
  rintro ⟨_, _, _, ⟨⟩, _⟩

theorem Fp.isReal.unique {v : Fp} {x y : ℝ} (hx : v.isReal x) (hy : v.isReal y) : x = y := by
  obtain ⟨neg, m, e, rfl, rfl⟩ := hx
  exact (Fp.isReal_fin_iff.1 hy).symm

theorem signFactor_ne_zero (neg : Bool) : (if neg then (-1 : ℝ) else 1) ≠ 0 := by
  cases neg <;> simp

theorem signFactor_xor (na nb : Bool) :
    (if na ^^ nb then (-1 : ℝ) else 1) = (if na then -1 else 1) * (if nb then -1 else 1) := by
  cases na <;> cases nb <;> simp

theorem abs_signFactor_mul (neg : Bool) (r : ℝ) : abs ((if neg then -1 else 1) * r) = abs r := by
  cases neg <;> simp

theorem finReal_eq_zero_iff {neg : Bool} {m : Nat} {e : Int} :
    (if neg then -1 else 1) * (m : ℝ) * (2 : ℝ) ^ e = 0 ↔ m = 0 := by
  have hpow : (2 : ℝ) ^ e ≠ 0 := by positivity
  rw [mul_eq_zero, mul_eq_zero, or_iff_left hpow, or_iff_right (signFactor_ne_zero neg),
    Nat.cast_eq_zero]

theorem finReal_neg_iff {neg : Bool} {m : Nat} {e : Int} :
    (if neg then -1 else 1) * (m : ℝ) * (2 : ℝ) ^ e < 0 ↔ neg = true ∧ m ≠ 0 := by
  have hpow : (0 : ℝ) < (2 : ℝ) ^ e := by positivity
  cases neg
  · simpa using mul_nonneg m.cast_nonneg hpow.le
  · simp [hpow, Nat.pos_iff_ne_zero]

/-- `eq0_F` is true exactly of the zeros (42_fp_conversion_and_reals.md R137). -/
theorem Fp.eq0_iff {a : Fp} : a.eq0 = true ↔ a.isReal 0 := by
  cases a with
  | nan => simp [Fp.eq0, Fp.not_isReal_nan]
  | inf neg => simp [Fp.eq0, Fp.not_isReal_inf]
  | fin neg m e =>
    rw [Fp.isReal_fin_iff, eq_comm (a := (0 : ℝ)), finReal_eq_zero_iff]
    simp [Fp.eq0]

/-! ### Two values brought to a common power of two -/

theorem two_zpow_split {d e : Int} (h : d ≤ e) :
    (2 : ℝ) ^ e = (2 : ℝ) ^ (e - d).toNat * (2 : ℝ) ^ d := by
  rw [← zpow_natCast, ← zpow_add₀ two_ne_zero, Int.toNat_of_nonneg (by omega), sub_add_cancel]

theorem signed_cast (neg : Bool) (m : Nat) :
    ((signed neg m : Int) : ℝ) = (if neg then -1 else 1) * (m : ℝ) := by
  cases neg <;> simp [signed]

/-- What `add_F` and `le_F` compute with: a value in units of a smaller power of two. -/
theorem signed_align {neg : Bool} {m : Nat} {e k : Int} (h : k ≤ e) :
    ((signed neg (m * 2 ^ (e - k).toNat) : Int) : ℝ) * (2 : ℝ) ^ k =
      (if neg then -1 else 1) * (m : ℝ) * (2 : ℝ) ^ e := by
  rw [signed_cast, two_zpow_split h]
  push_cast
  ring

/-- `le_F` compares finite values as real numbers (42_fp_conversion_and_reals.md R137). -/
theorem Fp.le_iff {a b : Fp} {x y : ℝ} (ha : a.isReal x) (hb : b.isReal y) :
    Fp.le a b = true ↔ x ≤ y := by
  obtain ⟨na, ma, ea, rfl, rfl⟩ := ha
  obtain ⟨nb, mb, eb, rfl, rfl⟩ := hb
  have hpow : (0 : ℝ) < (2 : ℝ) ^ (min ea eb) := by positivity
  rw [← signed_align (min_le_left ea eb), ← signed_align (min_le_right ea eb),
    mul_le_mul_iff_left₀ hpow, Int.cast_le]
  exact decide_eq_true_iff

theorem Fp.le_nan_left (a : Fp) : Fp.le .nan a = false := rfl

theorem Fp.le_nan_right (a : Fp) : Fp.le a .nan = false := by cases a <;> rfl

/-! ### Canonical values -/

/-- The real numbers that are values of the format (42_fp_conversion_and_reals.md R126). -/
def Representable (F : Fmt) (y : ℝ) : Prop := ∃ v : Fp, v.canonical F ∧ v.isReal y

theorem two_pow_precision (F : Fmt) : 2 ^ F.precision = 2 * 2 ^ F.fracBits := by
  rw [← F.fracBits_succ, pow_succ, mul_comm]

theorem precision_cast (F : Fmt) : (F.precision : Int) = F.fracBits + 1 := by
  rw [← F.fracBits_succ, Nat.cast_succ]

/-- Above the smallest quantum a canonical value is normal. -/
theorem Fp.canonical.normal {F : Fmt} {neg : Bool} {m : Nat} {e : Int}
    (hc : (Fp.fin neg m e).canonical F) (h : F.minQuantum < e) : 2 ^ F.fracBits ≤ m := by
  obtain ⟨-, -, -, hsub⟩ := hc
  by_contra! hlt
  have := hsub hlt
  omega

/-- Of two different exponents the greater one belongs to a normal value, which is too great for the
other to reach. -/
theorem canonical_exp_le {F : Fmt} {na nb : Bool} {m n : Nat} {d e : Int}
    (ha : (Fp.fin na m d).canonical F) (hb : (Fp.fin nb n e).canonical F)
    (h : (m : ℝ) * (2 : ℝ) ^ d = (n : ℝ) * (2 : ℝ) ^ e) : e ≤ d := by
  obtain ⟨hm, hd, -, -⟩ := ha
  by_contra! hlt
  have hn : 2 ^ F.fracBits ≤ n := hb.normal (by omega)
  rw [two_zpow_split hlt.le, ← mul_assoc] at h
  have hmn : m = n * 2 ^ (e - d).toNat := by exact_mod_cast mul_right_cancel₀ (by positivity) h
  have htwo : 2 ^ 1 ≤ 2 ^ (e - d).toNat := Nat.pow_le_pow_right two_pos (by omega)
  have := Nat.mul_le_mul hn htwo
  have := two_pow_precision F
  omega

/-- Two canonical magnitudes that are equal are equal in their parts. -/
theorem canonical_parts_unique {F : Fmt} {na nb : Bool} {m n : Nat} {d e : Int}
    (ha : (Fp.fin na m d).canonical F) (hb : (Fp.fin nb n e).canonical F)
    (h : (m : ℝ) * (2 : ℝ) ^ d = (n : ℝ) * (2 : ℝ) ^ e) : m = n ∧ d = e := by
  obtain rfl : d = e := le_antisymm (canonical_exp_le hb ha h.symm) (canonical_exp_le ha hb h)
  exact ⟨by exact_mod_cast mul_right_cancel₀ (by positivity) h, rfl⟩

/-- Canonical values that are the same real number are the same value, zeros aside. -/
theorem Fp.canonical.ext {F : Fmt} {a b : Fp} {x : ℝ} (ha : a.canonical F) (hb : b.canonical F)
    (hax : a.isReal x) (hbx : b.isReal x) (hx : x ≠ 0) : a = b := by
  obtain ⟨na, m, d, rfl, rfl⟩ := hax
  obtain ⟨nb, n, e, rfl, h⟩ := hbx
  have hneg : na = nb := by
    have hm := finReal_eq_zero_iff.not.1 hx
    have hn := finReal_eq_zero_iff.not.1 (h ▸ hx)
    have hsign := (finReal_neg_iff (neg := na) (m := m) (e := d))
    rw [h, finReal_neg_iff] at hsign
    rw [Bool.eq_iff_iff]
    tauto
  subst hneg
  simp only [mul_assoc] at h
  obtain ⟨rfl, rfl⟩ := canonical_parts_unique ha hb (mul_left_cancel₀ (signFactor_ne_zero na) h)
  rfl

theorem Representable.neg {F : Fmt} {y : ℝ} (h : Representable F y) : Representable F (-y) := by
  obtain ⟨_, hc, neg, m, e, rfl, rfl⟩ := h
  exact ⟨.fin (!neg) m e, hc, !neg, m, e, rfl, by cases neg <;> simp⟩

theorem Representable.abs {F : Fmt} {y : ℝ} (h : Representable F y) : Representable F |y| := by
  rcases abs_choice y with hy | hy <;> rw [hy]
  · exact h
  · exact h.neg

/-- A magnitude of at most `p` bits, in units not finer than the smallest quantum: while it has
fewer bits than a normal value, the units can be halved. -/
theorem representable_of_le {F : Fmt} {m : Nat} {e : Int} (hm : m ≤ 2 ^ F.precision)
    (he : F.minQuantum ≤ e) (hmax : (m : ℝ) * (2 : ℝ) ^ e < (2 : ℝ) ^ (F.emax + 1)) :
    Representable F ((m : ℝ) * (2 : ℝ) ^ e) := by
  have normal {m : Nat} {e : Int} (hm : m ≤ 2 ^ F.precision) (he : F.minQuantum ≤ e)
      (hlow : F.minQuantum < e → 2 ^ F.fracBits ≤ m)
      (hmax : (m : ℝ) * (2 : ℝ) ^ e < (2 : ℝ) ^ (F.emax + 1)) :
      Representable F ((m : ℝ) * (2 : ℝ) ^ e) := by
    obtain ⟨hc, m', e', hv, hval⟩ := (ofQuanta_spec F false hm he hlow).2 hmax
    exact ⟨_, hc, hv ▸ Fp.isReal_fin_iff.2 (by simp [hval])⟩
  induction e, he using Int.leInduction generalizing m with
  | base => exact normal hm le_rfl (fun h => absurd h (lt_irrefl _)) hmax
  | succ e he ih =>
    rcases le_or_gt (2 ^ F.fracBits) m with hlow | hlow
    · exact normal hm (by omega) (fun _ => hlow) hmax
    · have hhalf : (m : ℝ) * (2 : ℝ) ^ (e + 1) = ((2 * m : Nat) : ℝ) * (2 : ℝ) ^ e := by
        rw [zpow_add_one₀ two_ne_zero]
        push_cast
        ring
      rw [hhalf] at hmax ⊢
      have := two_pow_precision F
      exact ih (by omega) hmax

theorem Representable.lt_two_pow {F : Fmt} {y : ℝ} (h : Representable F y) :
    |y| < (2 : ℝ) ^ (F.emax + 1) := by
  obtain ⟨_, hc, neg, m, e, rfl, rfl⟩ := h
  obtain ⟨hm, -, he, -⟩ := hc
  have hp := precision_cast F
  have hm' : (m : ℝ) < (2 : ℝ) ^ F.precision := by exact_mod_cast hm
  rw [mul_assoc, abs_signFactor_mul, abs_of_nonneg (by positivity)]
  calc (m : ℝ) * (2 : ℝ) ^ e < (2 : ℝ) ^ F.precision * (2 : ℝ) ^ e := by gcongr
    _ = (2 : ℝ) ^ ((F.precision : Int) + e) := by rw [zpow_add₀ two_ne_zero, zpow_natCast]
    _ ≤ _ := zpow_le_zpow_right₀ one_le_two (by omega)

end Sys2Proof.Machine

/-! # Rounding, seen from the values of the format (42_fp_conversion_and_reals.md R127)

The rounded value is as near to the exact one as any value of the format. From this alone follow the
bounds, the exact cases and the monotony of every primitive. -/

namespace Sys2Proof.Machine

/-! ### The nearest value -/

theorem abs_sub_le_of_multiple {q s : ℝ} {m : Nat} (hq : 0 < q) (h : |(m : ℝ) * q - s| ≤ q / 2)
    (k : Int) : |(m : ℝ) * q - s| ≤ |(k : ℝ) * q - s| := by
  by_cases hk : k = m
  · simp [hk]
  · have hone : (1 : ℝ) ≤ |(k : ℝ) - m| := by
      exact_mod_cast Int.one_le_abs (sub_ne_zero.2 hk)
    have hgap : q ≤ |(k : ℝ) * q - m * q| := by
      rw [← sub_mul, abs_mul, abs_of_pos hq]
      exact le_mul_of_one_le_left hq.le hone
    have := abs_sub_le ((k : ℝ) * q) s (m * q)
    rw [abs_sub_comm s] at this
    linarith

/-- A value of the format is a multiple of the power of two `2^t`, or below the normal values with
that quantum. -/
theorem Representable.multiple_or_lt {F : Fmt} {y : ℝ} (h : Representable F y) (t : Int) :
    (∃ k : Int, |y| = k * (2 : ℝ) ^ t) ∨ (F.minQuantum < t ∧ |y| < (2 : ℝ) ^ (t + F.fracBits)) := by
  obtain ⟨_, hc, neg, m, e, rfl, rfl⟩ := h
  obtain ⟨hm, he, -, -⟩ := hc
  have hp := precision_cast F
  rw [mul_assoc, abs_signFactor_mul, abs_of_nonneg (by positivity)]
  rcases le_or_gt t e with hte | hte
  · exact .inl ⟨(m * 2 ^ (e - t).toNat : Nat), by rw [two_zpow_split hte]; push_cast; ring⟩
  · refine .inr ⟨by omega, ?_⟩
    have hm' : (m : ℝ) < (2 : ℝ) ^ F.precision := by exact_mod_cast hm
    calc (m : ℝ) * (2 : ℝ) ^ e < (2 : ℝ) ^ F.precision * (2 : ℝ) ^ e := by gcongr
      _ = (2 : ℝ) ^ ((F.precision : Int) + e) := by rw [zpow_add₀ two_ne_zero, zpow_natCast]
      _ ≤ _ := zpow_le_zpow_right₀ one_le_two (by omega)

/-- The multiple R127 takes is as near to the exact value as any value of the format. -/
theorem abs_sub_le_of_representable {F : Fmt} {s y : ℝ} {e : Int} {m : Nat}
    (hlow : F.emin < e → (2 : ℝ) ^ e ≤ s)
    (hhalf : |(m : ℝ) * (2 : ℝ) ^ (e - F.fracBits) - s| ≤ (2 : ℝ) ^ (e - F.fracBits) / 2)
    (hy : Representable F y) :
    |(m : ℝ) * (2 : ℝ) ^ (e - F.fracBits) - s| ≤ abs (abs y - s) := by
  have hnear := abs_sub_le_of_multiple (by positivity) hhalf
  rcases hy.multiple_or_lt (e - F.fracBits) with ⟨k, hk⟩ | ⟨he, hlt⟩
  · exact hk ▸ hnear k
  · -- Below the normal values of that quantum the least of them, a multiple, is nearer.
    rw [sub_add_cancel] at hlt
    have hs := hlow (by rw [Fmt.minQuantum_eq] at he; omega)
    have hpow : (((2 ^ F.fracBits : Nat) : Int) : ℝ) * (2 : ℝ) ^ (e - F.fracBits) =
        (2 : ℝ) ^ e := by
      push_cast
      rw [← zpow_natCast, ← zpow_add₀ two_ne_zero, add_sub_cancel]
    refine (hnear (2 ^ F.fracBits : Nat)).trans ?_
    rw [hpow, abs_of_nonpos (by linarith), abs_of_nonpos (by linarith)]
    linarith

/-- `v` is `round_F(r)`, zero included; a zero may have either sign. -/
structure Rounds (F : Fmt) (r : ℝ) (v : Fp) : Prop where
  roundsTo : r ≠ 0 → RoundsTo F r v
  zero : r = 0 → ∃ neg, v = .zero F neg

theorem Fp.zero_isReal (F : Fmt) (neg : Bool) : (Fp.zero F neg).isReal 0 :=
  Fp.isReal_fin_iff.2 (by simp)

theorem representable_zero (F : Fmt) : Representable F 0 :=
  ⟨_, Fp.canonical_zero F false, Fp.zero_isReal F false⟩

theorem Rounds.canonical {F : Fmt} {r : ℝ} {v : Fp} (h : Rounds F r v) : v.canonical F := by
  by_cases hr : r = 0
  · obtain ⟨neg, rfl⟩ := h.zero hr
    exact Fp.canonical_zero F neg
  · exact (h.roundsTo hr).canonical.1

/-- The magnitude that is rounded to: nearest, and infinite from `2^(emax + 1)` on. -/
theorem Rounds.exists_magnitude {F : Fmt} {r : ℝ} {v : Fp} (h : Rounds F r v) :
    ∃ z : ℝ, 0 ≤ z ∧ (∀ y, Representable F y → abs (z - abs r) ≤ abs (abs y - abs r)) ∧
      ((2 : ℝ) ^ (F.emax + 1) ≤ z → v = .inf (decide (r < 0))) ∧
      (z < (2 : ℝ) ^ (F.emax + 1) → v.isReal (if r < 0 then -z else z)) := by
  by_cases hr : r = 0
  · obtain ⟨neg, rfl⟩ := h.zero hr
    have hpow : (0 : ℝ) < (2 : ℝ) ^ (F.emax + 1) := by positivity
    exact ⟨0, le_rfl, by simp [hr], fun h => absurd h (not_le.2 hpow),
      fun _ => by simpa using Fp.zero_isReal F neg⟩
  · obtain ⟨e, m, -, -, hlow, hhalf, -, hinf, hfin⟩ := h.roundsTo hr
    refine ⟨_, by positivity, fun y hy => abs_sub_le_of_representable hlow hhalf hy, hinf, ?_⟩
    intro hlt
    obtain ⟨-, m', e', rfl, hval⟩ := hfin hlt
    rw [Fp.isReal_fin_iff, mul_assoc, hval]
    by_cases hneg : r < 0 <;> simp [hneg]

theorem Rounds.nearest {F : Fmt} {r x y : ℝ} {v : Fp} (h : Rounds F r v) (hx : v.isReal x)
    (hy : Representable F y) : |x - r| ≤ |y - r| := by
  obtain ⟨z, -, hnear, hinf, hfin⟩ := h.exists_magnitude
  rcases le_or_gt ((2 : ℝ) ^ (F.emax + 1)) z with hz | hz
  · exact absurd (hinf hz ▸ hx) (Fp.not_isReal_inf _ x)
  · have hxz : |x - r| = abs (z - abs r) := by
      rw [hx.unique (hfin hz)]
      split
      · next hneg => rw [abs_of_neg hneg, ← abs_neg]; ring_nf
      · next hpos => rw [abs_of_nonneg (not_lt.1 hpos)]
    exact hxz.trans_le ((hnear y hy).trans (abs_abs_sub_abs_le_abs_sub y r))

/-- Below a value of the format there is no overflow. -/
theorem Rounds.finite {F : Fmt} {r y : ℝ} {v : Fp} (h : Rounds F r v) (hy : Representable F y)
    (hr : |r| ≤ |y|) : ∃ x, v.isReal x := by
  obtain ⟨z, -, hnear, -, hfin⟩ := h.exists_magnitude
  refine ⟨_, hfin ?_⟩
  have h1 := (le_abs_self _).trans (hnear y hy)
  rw [abs_of_nonneg (sub_nonneg.2 hr)] at h1
  linarith [hy.lt_two_pow]

section
variable {F : Fmt} {r x y : ℝ} {v : Fp} (h : Rounds F r v) (hx : v.isReal x)
  (hy : Representable F y)
include h hx hy

theorem Rounds.le_of_le (hle : y ≤ r) : y ≤ x := by
  by_contra! hlt
  have := h.nearest hx hy
  rw [abs_of_nonpos (by linarith), abs_of_nonpos (by linarith)] at this
  linarith

theorem Rounds.ge_of_ge (hle : r ≤ y) : x ≤ y := by
  by_contra! hlt
  have := h.nearest hx hy
  rw [abs_of_nonneg (by linarith), abs_of_nonneg (by linarith)] at this
  linarith

end

/-- A magnitude below a value of the format is rounded to one. -/
theorem Rounds.finite_of_abs_le {F : Fmt} {r y : ℝ} {v : Fp} (h : Rounds F r v)
    (hy : Representable F y) (hr : |r| ≤ y) : ∃ x, v.isReal x ∧ |x| ≤ y := by
  obtain ⟨x, hx⟩ := h.finite hy (hr.trans (le_abs_self y))
  obtain ⟨hlo, hhi⟩ := abs_le.1 hr
  exact ⟨x, hx, abs_le.2 ⟨h.le_of_le hx hy.neg hlo, h.ge_of_ge hx hy hhi⟩⟩

/-- A value of the format is rounded to itself. -/
theorem Rounds.isReal_self {F : Fmt} {r : ℝ} {v : Fp} (h : Rounds F r v) (hr : Representable F r) :
    v.isReal r := by
  obtain ⟨x, hx⟩ := h.finite hr le_rfl
  exact le_antisymm (h.ge_of_ge hx hr le_rfl) (h.le_of_le hx hr le_rfl) ▸ hx

/-! ### Uniqueness and monotony -/

/-- The exponent of R127 is determined by the exact value. -/
theorem exponent_unique {emin d e : Int} {s : ℝ} (hd : emin ≤ d) (hd1 : s < (2 : ℝ) ^ (d + 1))
    (hd2 : emin < d → (2 : ℝ) ^ d ≤ s) (he : emin ≤ e) (he1 : s < (2 : ℝ) ^ (e + 1))
    (he2 : emin < e → (2 : ℝ) ^ e ≤ s) : d = e := by
  rcases lt_trichotomy d e with h | h | h
  · have := (he2 (by omega)).trans_lt hd1
    rw [zpow_lt_zpow_iff_right₀ one_lt_two] at this
    omega
  · exact h
  · have := (hd2 (by omega)).trans_lt he1
    rw [zpow_lt_zpow_iff_right₀ one_lt_two] at this
    omega

/-- So is the multiple: two equally near ones are neighbours, and one of them is odd. -/
theorem multiple_unique {q s : ℝ} {m n : Nat} (hq : 0 < q) (hm : |(m : ℝ) * q - s| ≤ q / 2)
    (hm2 : |(m : ℝ) * q - s| = q / 2 → m % 2 = 0) (hn : |(n : ℝ) * q - s| ≤ q / 2)
    (hn2 : |(n : ℝ) * q - s| = q / 2 → n % 2 = 0) : m = n := by
  have heq : |(m : ℝ) * q - s| = |(n : ℝ) * q - s| :=
    le_antisymm (by exact_mod_cast abs_sub_le_of_multiple hq hm n)
      (by exact_mod_cast abs_sub_le_of_multiple hq hn m)
  rcases abs_eq_abs.1 heq with h | h
  · have : (m : ℝ) * q = n * q := by linarith
    exact_mod_cast mul_right_cancel₀ hq.ne' this
  · have hdiff : (m : ℝ) * q - s = (((m : Int) - n : Int) : ℝ) * (q / 2) := by
      push_cast
      linarith
    have hfar : |(m : ℝ) * q - s| = ((|(m : Int) - n| : Int) : ℝ) * (q / 2) := by
      rw [hdiff, abs_mul, abs_of_pos (half_pos hq), Int.cast_abs]
    have hone : |(m : Int) - n| ≤ 1 := by
      rw [hfar] at hm
      exact_mod_cast (mul_le_iff_le_one_left (half_pos hq)).1 hm
    by_contra hne
    have habs : |(m : Int) - n| = 1 := by
      have := Int.one_le_abs (z := (m : Int) - n) (by omega)
      omega
    rw [habs, Int.cast_one, one_mul] at hfar
    have := hm2 hfar
    have := hn2 (heq ▸ hfar)
    rcases (abs_eq zero_le_one).1 habs with h1 | h1 <;> omega

/-- Correct rounding has one result (42_fp_conversion_and_reals.md R127). -/
theorem RoundsTo.unique {F : Fmt} {r : ℝ} {v w : Fp} (hv : RoundsTo F r v) (hw : RoundsTo F r w) :
    v = w := by
  obtain ⟨d, m, hd, hd1, hd2, hm, hm2, hvinf, hvfin⟩ := hv
  obtain ⟨e, n, he, he1, he2, hn, hn2, hwinf, hwfin⟩ := hw
  obtain rfl := exponent_unique hd hd1 hd2 he he1 he2
  obtain rfl := multiple_unique (by positivity) hm hm2 hn hn2
  rcases le_or_gt ((2 : ℝ) ^ (F.emax + 1)) ((m : ℝ) * (2 : ℝ) ^ (d - F.fracBits)) with h | h
  · rw [hvinf h, hwinf h]
  · obtain ⟨hvc, m', d', rfl, hval⟩ := hvfin h
    obtain ⟨hwc, n', e', rfl, hval'⟩ := hwfin h
    obtain ⟨rfl, rfl⟩ := canonical_parts_unique hvc hwc (hval.trans hval'.symm)
    rfl

theorem Rounds.mono {F : Fmt} {r r' x x' : ℝ} {v v' : Fp} (h : Rounds F r v) (h' : Rounds F r' v')
    (hx : v.isReal x) (hx' : v'.isReal x') (hle : r ≤ r') : x ≤ x' := by
  rcases hle.eq_or_lt with rfl | hlt
  · by_cases hr : r = 0
    · obtain ⟨neg, rfl⟩ := h.zero hr
      obtain ⟨neg', rfl⟩ := h'.zero hr
      rw [hx.unique (Fp.zero_isReal F neg), hx'.unique (Fp.zero_isReal F neg')]
    · obtain rfl := (h.roundsTo hr).unique (h'.roundsTo hr)
      exact (hx.unique hx').le
  · -- Were the results in the wrong order, each exact value would lie on its result's side of the
    -- middle of the two.
    by_contra! hgt
    have hnear := h.nearest hx ⟨v', h'.canonical, hx'⟩
    have hnear' := h'.nearest hx' ⟨v, h.canonical, hx⟩
    rw [← sq_le_sq] at hnear hnear'
    nlinarith

end Sys2Proof.Machine

/-! # The primitives round their exact results (42_fp_conversion_and_reals.md R129 to R139) -/

namespace Sys2Proof.Machine

/-! ### Rounding a fraction -/

theorem roundFrac_zero (F : Fmt) (neg : Bool) (d : Nat) (k : Int) :
    roundFrac F neg 0 d k = .zero F neg := if_pos rfl

theorem fracReal_eq_zero_iff {neg : Bool} {n d : Nat} {k : Int} (hd : d ≠ 0) :
    (if neg then (-1 : ℝ) else 1) * ((n : ℝ) / d * (2 : ℝ) ^ k) = 0 ↔ n = 0 := by
  have hpow : (2 : ℝ) ^ k ≠ 0 := by positivity
  have hd' : (d : ℝ) ≠ 0 := Nat.cast_ne_zero.2 hd
  rw [mul_eq_zero, or_iff_right (signFactor_ne_zero neg), mul_eq_zero, or_iff_left hpow,
    div_eq_zero_iff, or_iff_left hd', Nat.cast_eq_zero]

theorem roundFrac_rounds (F : Fmt) (neg : Bool) (n : Nat) {d : Nat} (k : Int) (hd : d ≠ 0) {r : ℝ}
    (hr : r = (if neg then -1 else 1) * ((n : ℝ) / d * (2 : ℝ) ^ k)) :
    Rounds F r (roundFrac F neg n d k) := by
  subst hr
  constructor
  · intro h
    exact roundFrac_roundsTo F neg k ((fracReal_eq_zero_iff hd).not.1 h) hd
  · intro h
    obtain rfl := (fracReal_eq_zero_iff hd).1 h
    exact ⟨neg, roundFrac_zero F neg d k⟩

theorem ofQuanta_sign {F : Fmt} {neg neg' : Bool} {m m' : Nat} {t e : Int}
    (h : ofQuanta F neg m t = .fin neg' m' e) : neg' = neg := by
  unfold ofQuanta inRange at h
  split at h <;> split at h <;> cases h <;> rfl

/-- Rounding keeps the sign it is given. -/
theorem roundFrac_sign {F : Fmt} {neg neg' : Bool} {n d m : Nat} {k e : Int}
    (h : roundFrac F neg n d k = .fin neg' m e) : neg' = neg := by
  unfold roundFrac at h
  split at h
  · cases h
    rfl
  · exact ofQuanta_sign h

theorem roundFrac_ne_nan (F : Fmt) (neg : Bool) (n : Nat) {d : Nat} (k : Int) (hd : d ≠ 0) :
    roundFrac F neg n d k ≠ .nan := (roundFrac_canonical F neg n k hd).2

/-- An integer in units of a power of two; where it is 0 any sign will do. -/
theorem roundFrac_int_rounds (F : Fmt) (k : Int) {neg : Bool} {i : Int}
    (hneg : i ≠ 0 → neg = decide (i < 0)) :
    Rounds F ((i : ℝ) * (2 : ℝ) ^ k) (roundFrac F neg i.natAbs 1 k) := by
  refine roundFrac_rounds F neg i.natAbs k one_ne_zero ?_
  have habs : ((i.natAbs : Nat) : ℝ) = |(i : ℝ)| := by rw [Nat.cast_natAbs, Int.cast_abs]
  have hsign : (i : ℝ) = (if neg then -1 else 1) * |(i : ℝ)| := by
    rcases lt_trichotomy i 0 with h | rfl | h
    · have h' : (i : ℝ) < 0 := Int.cast_lt_zero.2 h
      simp [hneg h.ne, h, abs_of_neg h']
    · simp
    · have h' : (0 : ℝ) < i := Int.cast_pos.2 h
      simp [hneg h.ne', h.le, abs_of_pos h']
  rw [habs, Nat.cast_one, div_one, ← mul_assoc, ← hsign]

/-! ### Conversion -/

theorem Fp.cvt_zero (F : Fmt) : Fp.cvt F 0 = .fin false 0 F.minQuantum := roundFrac_zero F false 1 0

theorem Fp.cvt_rounds (F : Fmt) (i : Int) : Rounds F (i : ℝ) (.cvt F i) := by
  have h := roundFrac_int_rounds F 0 (neg := decide (i < 0)) (i := i) fun _ => rfl
  rwa [zpow_zero, mul_one] at h

/-- Settles O37, by `Fp.cvt_rounds`. -/
theorem conversionCorrectlyRounded : Obligations.ConversionCorrectlyRounded := fun F =>
  ⟨Fp.cvt_zero F, fun i hi => (Fp.cvt_rounds F i).roundsTo (Int.cast_ne_zero.2 hi)⟩

/-! ### Multiplication, division and addition of finite values -/

theorem div_signFactor_mul (neg : Bool) (r q : ℝ) :
    r / ((if neg then -1 else 1) * q) = (if neg then -1 else 1) * (r / q) := by
  cases neg <;> simp [div_neg]

section
variable {F : Fmt} {a b : Fp} {x y : ℝ} (ha : a.isReal x) (hb : b.isReal y)
include ha hb

theorem Fp.mul_rounds : Rounds F (x * y) (.mul F a b) := by
  obtain ⟨na, ma, ea, rfl, rfl⟩ := ha
  obtain ⟨nb, mb, eb, rfl, rfl⟩ := hb
  refine roundFrac_rounds F _ _ _ one_ne_zero ?_
  rw [signFactor_xor, zpow_add₀ two_ne_zero]
  push_cast
  ring

theorem Fp.div_rounds (hy : y ≠ 0) : Rounds F (x / y) (.div F a b) := by
  obtain ⟨na, ma, ea, rfl, rfl⟩ := ha
  obtain ⟨nb, mb, eb, rfl, rfl⟩ := hb
  have hmb : mb ≠ 0 := finReal_eq_zero_iff.not.1 hy
  have hdiv : Fp.div F (.fin na ma ea) (.fin nb mb eb) =
      roundFrac F (na ^^ nb) ma mb (ea - eb) := if_neg hmb
  rw [hdiv]
  refine roundFrac_rounds F _ _ _ hmb ?_
  rw [mul_assoc (if nb then (-1 : ℝ) else 1), div_signFactor_mul, signFactor_xor,
    zpow_sub₀ two_ne_zero]
  ring

theorem Fp.add_rounds : Rounds F (x + y) (.add F a b) := by
  obtain ⟨na, ma, ea, rfl, rfl⟩ := ha
  obtain ⟨nb, mb, eb, rfl, rfl⟩ := hb
  rw [← signed_align (min_le_left ea eb), ← signed_align (min_le_right ea eb), ← add_mul,
    ← Int.cast_add]
  exact roundFrac_int_rounds F _ fun h => if_neg h

end

section
variable (F : Fmt) {na nb : Bool} {ma mb : Nat} {ea eb : Int} {x y : ℝ}
  (ha : (Fp.fin na ma ea).isReal x) (hb : (Fp.fin nb mb eb).isReal y)
include ha

theorem Fp.isReal.mant_eq_zero_iff : ma = 0 ↔ x = 0 := by
  rw [Fp.isReal_fin_iff.1 ha, finReal_eq_zero_iff]

include hb

theorem Fp.mul_of_eq_zero (h : x * y = 0) :
    Fp.mul F (.fin na ma ea) (.fin nb mb eb) = .zero F (na ^^ nb) := by
  have hm : ma * mb = 0 := by
    rwa [mul_eq_zero, ha.mant_eq_zero_iff, hb.mant_eq_zero_iff, ← mul_eq_zero]
  simp only [Fp.mul, hm, roundFrac_zero]

theorem Fp.div_of_eq_zero (hx : x = 0) (hy : y ≠ 0) :
    Fp.div F (.fin na ma ea) (.fin nb mb eb) = .zero F (na ^^ nb) := by
  have hma := ha.mant_eq_zero_iff.2 hx
  have hmb := hb.mant_eq_zero_iff.not.2 hy
  simp only [Fp.div, hma, hmb, if_false, roundFrac_zero]

theorem Fp.div_by_zero (hx : x ≠ 0) (hy : y = 0) :
    Fp.div F (.fin na ma ea) (.fin nb mb eb) = .inf (na ^^ nb) := by
  have hma := ha.mant_eq_zero_iff.not.2 hx
  have hmb := hb.mant_eq_zero_iff.2 hy
  simp only [Fp.div, hma, hmb, if_true, if_false]

theorem Fp.add_of_eq_zero (h : x + y = 0) :
    Fp.add F (.fin na ma ea) (.fin nb mb eb) = .zero F (na && nb) := by
  have hpow : (2 : ℝ) ^ (min ea eb) ≠ 0 := by positivity
  rw [Fp.isReal_fin_iff.1 ha, Fp.isReal_fin_iff.1 hb, ← signed_align (min_le_left ea eb),
    ← signed_align (min_le_right ea eb), ← add_mul, ← Int.cast_add, mul_eq_zero, or_iff_left hpow,
    Int.cast_eq_zero] at h
  simp only [Fp.add, h, if_true, Int.natAbs_zero, roundFrac_zero]

end

/-- Settles O38: where the exact result is zero the sign is read off the primitive. -/
theorem arithmeticCorrectlyRounded : Obligations.ArithmeticCorrectlyRounded := by
  intro F na nb ma mb ea eb x y a b ha hb
  have hsign : (if na = nb then na else false) = (na && nb) := by cases na <;> cases nb <;> rfl
  refine ⟨fun h => ?_, Fp.div_of_eq_zero F ha hb, fun hx hy => ⟨_, Fp.div_by_zero F ha hb hx hy⟩,
    (Fp.mul_rounds ha hb).roundsTo, Fp.mul_of_eq_zero F ha hb, (Fp.add_rounds ha hb).roundsTo,
    fun h => ?_, Fp.cvt_zero F⟩
  · obtain ⟨-, hy⟩ := div_ne_zero_iff.1 h
    exact (Fp.div_rounds ha hb hy).roundsTo h
  · rw [hsign]
    exact Fp.add_of_eq_zero F ha hb h

/-! ### Where the primitives give a NaN -/

theorem sqrtPositive_ne_nan (F : Fmt) (m : Nat) (e : Int) : sqrtPositive F m e ≠ .nan := by
  unfold sqrtPositive
  split <;> exact roundFrac_ne_nan F _ _ _ one_ne_zero

theorem Fp.mul_eq_nan_iff (F : Fmt) (a b : Fp) : Fp.mul F a b = .nan ↔ a = .nan ∨ b = .nan ∨
    (a.eq0 = true ∧ ∃ n, b = .inf n) ∨ (b.eq0 = true ∧ ∃ n, a = .inf n) := by
  cases a with
  | nan => simp [Fp.mul]
  | inf => cases b <;> simp [Fp.mul, Fp.eq0]
  | fin => cases b <;> simp [Fp.mul, Fp.eq0, roundFrac_ne_nan]

theorem Fp.add_eq_nan_iff (F : Fmt) (a b : Fp) : Fp.add F a b = .nan ↔ a = .nan ∨ b = .nan ∨
    ∃ n, a = .inf n ∧ b = .inf (!n) := by
  cases a with
  | nan => simp [Fp.add]
  | inf na =>
    cases b with
    | nan | fin => simp [Fp.add]
    | inf nb => cases na <;> cases nb <;> simp [Fp.add]
  | fin => cases b <;> simp [Fp.add, roundFrac_ne_nan]

theorem Fp.div_eq_nan_iff (F : Fmt) (a b : Fp) : Fp.div F a b = .nan ↔ a = .nan ∨ b = .nan ∨
    (a.eq0 = true ∧ b.eq0 = true) ∨ ((∃ n, a = .inf n) ∧ ∃ n, b = .inf n) := by
  cases a with
  | nan => simp [Fp.div]
  | inf => cases b <;> simp [Fp.div, Fp.eq0]
  | fin na ma ea =>
    cases b with
    | nan | inf => simp [Fp.div, Fp.eq0, Fp.zero]
    | fin nb mb eb =>
      by_cases hmb : mb = 0
      · simp [Fp.div, Fp.eq0, hmb]
      · simp [Fp.div, Fp.eq0, hmb, roundFrac_ne_nan F _ _ _ hmb]

theorem Fp.sqrt_eq_nan_iff (F : Fmt) (a : Fp) : Fp.sqrt F a = .nan ↔
    a = .nan ∨ a = .inf true ∨ ∃ m e, a = .fin true m e ∧ m ≠ 0 := by
  cases a with
  | nan => simp [Fp.sqrt]
  | inf neg => cases neg <;> simp [Fp.sqrt]
  | fin neg m e =>
    by_cases hm : m = 0
    · simp [Fp.sqrt, hm]
    · cases neg <;> simp [Fp.sqrt, hm, sqrtPositive_ne_nan]

/-- Settles O40: the NaNs by one lemma for each primitive, the rest by their equations. -/
theorem nanExactlyWhereListed : Obligations.NanExactlyWhereListed := by
  intro F a b
  refine ⟨Fp.mul_eq_nan_iff F a b, Fp.add_eq_nan_iff F a b, Fp.div_eq_nan_iff F a b,
    Fp.sqrt_eq_nan_iff F a, fun na nb m e d => ?_⟩
  exact ⟨rfl, fun hm => if_neg hm, fun hm => if_neg hm, rfl, rfl, fun hm => if_neg hm, if_pos rfl,
    rfl, rfl⟩

end Sys2Proof.Machine

/-! # The square root (42_fp_conversion_and_reals.md R135)

The root is cut off at a power of two far below the quantum, and a further bit tells whether
something was cut off. Every number that rounding compares with is a multiple of that power, so the
real root and the cut one with its further bit lie on the same side of it. -/

namespace Sys2Proof.Machine

/-! ### Numbers between two neighbouring multiples -/

theorem two_zpow_multiple {s t : Int} (h : t ≤ s) (m : Int) :
    (m : ℝ) * (2 : ℝ) ^ s = ((m * 2 ^ (s - t).toNat : Int) : ℝ) * (2 : ℝ) ^ t := by
  rw [two_zpow_split h]
  push_cast
  ring

/-- Both numbers lie strictly between the same two neighbouring multiples of `2^t`. -/
def SameGap (t : Int) (r r' : ℝ) : Prop :=
  ∃ n : Int, (n : ℝ) * (2 : ℝ) ^ t < r ∧ r < (n + 1) * (2 : ℝ) ^ t ∧
    (n : ℝ) * (2 : ℝ) ^ t < r' ∧ r' < (n + 1) * (2 : ℝ) ^ t

namespace SameGap
variable {t : Int} {r r' : ℝ} (h : SameGap t r r')
include h

theorem symm : SameGap t r' r := by
  obtain ⟨n, h1, h2, h3, h4⟩ := h
  exact ⟨n, h3, h4, h1, h2⟩

theorem multiple_lt (k : Int) (hk : (k : ℝ) * (2 : ℝ) ^ t ≤ r) : (k : ℝ) * (2 : ℝ) ^ t < r' := by
  obtain ⟨n, -, hup, hlo', -⟩ := h
  have hpow : (0 : ℝ) < (2 : ℝ) ^ t := by positivity
  have hkn : k < n + 1 := by exact_mod_cast lt_of_mul_lt_mul_right (hk.trans_lt hup) hpow.le
  have hkn' : (k : ℝ) ≤ n := by exact_mod_cast Int.lt_add_one_iff.1 hkn
  exact (mul_le_mul_of_nonneg_right hkn' hpow.le).trans_lt hlo'

theorem lt_multiple (k : Int) (hk : r ≤ (k : ℝ) * (2 : ℝ) ^ t) : r' < (k : ℝ) * (2 : ℝ) ^ t := by
  by_contra! hle
  exact absurd (h.symm.multiple_lt k hle) (not_lt.2 hk)

theorem zpow_le {s : Int} (hs : t ≤ s) (hr : (2 : ℝ) ^ s ≤ r) : (2 : ℝ) ^ s ≤ r' := by
  have hmul := two_zpow_multiple hs 1
  rw [Int.cast_one, one_mul] at hmul
  rw [hmul] at hr ⊢
  exact (h.multiple_lt _ hr).le

theorem lt_zpow {s : Int} (hs : t ≤ s) (hr : r < (2 : ℝ) ^ s) : r' < (2 : ℝ) ^ s := by
  by_contra! hle
  exact absurd (h.symm.zpow_le hs hle) (not_le.2 hr)

/-- The middle points beside a multiple of the quantum `2 * 2^s` are multiples of `2^s`. -/
theorem abs_sub_lt {s : Int} (hs : t ≤ s) (m : Nat)
    (hr : |(m : ℝ) * (2 * (2 : ℝ) ^ s) - r| ≤ (2 : ℝ) ^ s) :
    |(m : ℝ) * (2 * (2 : ℝ) ^ s) - r'| < (2 : ℝ) ^ s := by
  obtain ⟨hbelow, habove⟩ := abs_le.1 hr
  have hmul (k : Int) := two_zpow_multiple hs k
  have hlo := h.multiple_lt _ ((hmul (2 * m - 1)).symm.trans_le (by push_cast; linarith))
  have hhi := h.lt_multiple _ (le_of_le_of_eq (by push_cast; linarith) (hmul (2 * m + 1)))
  rw [← hmul] at hlo hhi
  push_cast at hlo hhi
  exact abs_lt.2 ⟨by linarith, by linarith⟩

end SameGap

/-- Two numbers with the same gap in a power of two well below the quantum are rounded alike. -/
theorem RoundsTo.of_sameGap {F : Fmt} {t : Int} {r r' : ℝ} {v : Fp} (h : RoundsTo F r v)
    (hgap : SameGap t r r') (hr : 0 < r) (hr' : 0 < r') (hbig : (2 : ℝ) ^ (t + F.precision) ≤ r) :
    RoundsTo F r' v := by
  obtain ⟨e, m, he, hup, hlow, hhalf, -, hinf, hfin⟩ := h
  rw [abs_of_pos hr] at hup hlow hhalf
  have hsign : decide (r < 0) = decide (r' < 0) := by
    rw [decide_eq_false hr.not_gt, decide_eq_false hr'.not_gt]
  have hp := precision_cast F
  have hte : t + F.precision < e + 1 :=
    (zpow_lt_zpow_iff_right₀ one_lt_two).1 (hbig.trans_lt hup)
  have hq : (2 : ℝ) ^ (e - F.fracBits) = 2 * (2 : ℝ) ^ (e - F.precision) := by
    rw [← zpow_one_add₀ two_ne_zero]
    congr 1
    omega
  have hin : |(m : ℝ) * (2 : ℝ) ^ (e - F.fracBits) - r'| < (2 : ℝ) ^ (e - F.fracBits) / 2 := by
    rw [hq, mul_div_cancel_left₀ _ two_ne_zero] at hhalf ⊢
    exact hgap.abs_sub_lt (by omega) m hhalf
  rw [hsign] at hinf hfin
  refine ⟨e, m, he, ?_, fun hemin => ?_, ?_, ?_, hinf, hfin⟩ <;> rw [abs_of_pos hr']
  · exact hgap.lt_zpow (by omega) hup
  · exact hgap.zpow_le (by omega) (hlow hemin)
  · exact hin.le
  · exact fun heq => absurd heq hin.ne

/-! ### The root with its further bit -/

/-- What `isqrt` cuts off a root that is no integer. -/
theorem isqrt_lt_sqrt {n : Nat} (h : isqrt n * isqrt n ≠ n) :
    (isqrt n : ℝ) < √n ∧ √n < (isqrt n : ℝ) + 1 := by
  obtain ⟨hlo, hup⟩ := isqrt_spec n
  constructor
  · refine Real.lt_sqrt_of_sq_lt ?_
    rw [sq]
    exact_mod_cast lt_of_le_of_ne hlo h
  · refine (Real.sqrt_lt' (by positivity)).2 ?_
    rw [sq]
    exact_mod_cast hup

theorem sqrt_of_isqrt_exact {n : Nat} (h : isqrt n * isqrt n = n) : √(n : ℝ) = isqrt n := by
  rw [Real.sqrt_eq_iff_mul_self_eq n.cast_nonneg (Nat.cast_nonneg _)]
  exact_mod_cast h.symm

theorem le_isqrt_of_sq_le {n b : Nat} (h : b * b ≤ n) : b ≤ isqrt n := by
  obtain ⟨-, hup⟩ := isqrt_spec n
  by_contra! hlt
  exact absurd (h.trans_lt hup) (not_lt.2 (Nat.mul_le_mul hlt hlt))

theorem roundFrac_half_units (F : Fmt) {n : Nat} (t : Int) (hn : n ≠ 0) :
    RoundsTo F ((n : ℝ) / 2 * (2 : ℝ) ^ t) (roundFrac F false n 1 (t - 1)) := by
  have h := roundFrac_roundsTo F false (t - 1) hn one_ne_zero
  rw [zpow_sub_one₀ two_ne_zero] at h
  convert h using 1
  simp
  ring

/-- The root `r` of `n`, cut off, with the further bit. -/
theorem roundFrac_isqrt_roundsTo (F : Fmt) {n : Nat} (t : Int)
    (hbig : 2 ^ F.precision ≤ isqrt n) :
    RoundsTo F (√n * (2 : ℝ) ^ t)
      (roundFrac F false (2 * isqrt n + (if isqrt n * isqrt n = n then 0 else 1)) 1 (t - 1)) := by
  have hpos : 0 < isqrt n := (Nat.two_pow_pos _).trans_le hbig
  have hpow : (0 : ℝ) < (2 : ℝ) ^ t := by positivity
  by_cases hexact : isqrt n * isqrt n = n
  · have h := roundFrac_half_units F (n := 2 * isqrt n) t (by omega)
    rw [if_pos hexact, add_zero, sqrt_of_isqrt_exact hexact]
    convert h using 2
    push_cast
    ring
  · have h := roundFrac_half_units F (n := 2 * isqrt n + 1) t (by omega)
    obtain ⟨hlo, hup⟩ := isqrt_lt_sqrt hexact
    have hmid : (((2 * isqrt n + 1 : Nat) : ℝ)) / 2 = isqrt n + 1 / 2 := by
      push_cast
      ring
    rw [hmid] at h
    rw [if_neg hexact]
    have hbig' : (2 : ℝ) ^ F.precision ≤ isqrt n := by exact_mod_cast hbig
    refine h.of_sameGap (t := t) ⟨isqrt n, ?_, ?_, ?_, ?_⟩ (by positivity)
      (mul_pos ((Nat.cast_nonneg _).trans_lt hlo) hpow) ?_
    · exact mul_lt_mul_of_pos_right (by push_cast; linarith) hpow
    · exact mul_lt_mul_of_pos_right (by push_cast; linarith) hpow
    · exact mul_lt_mul_of_pos_right hlo hpow
    · exact mul_lt_mul_of_pos_right hup hpow
    · rw [add_comm, zpow_add₀ two_ne_zero, zpow_natCast]
      exact mul_le_mul_of_nonneg_right (by linarith) hpow.le

/-- For an even exponent (42_fp_conversion_and_reals.md R135). -/
theorem sqrtEven_roundsTo (F : Fmt) {m : Nat} (k : Int) (hm : m ≠ 0) :
    RoundsTo F (√((m : ℝ) * (2 : ℝ) ^ (2 * k))) (sqrtEven F m (2 * k)) := by
  set j := F.precision + 2 with hj
  set n := m * 2 ^ (2 * j) with hn
  have hroot : √((m : ℝ) * (2 : ℝ) ^ (2 * k)) = √n * (2 : ℝ) ^ (k - j) := by
    have hpow : (2 : ℝ) ^ (2 * k) = (2 : ℝ) ^ (2 * j) * ((2 : ℝ) ^ (k - j)) ^ 2 := by
      rw [← zpow_natCast, ← zpow_natCast, ← zpow_mul, ← zpow_add₀ two_ne_zero]
      congr 1
      push_cast
      ring
    have hsq : (m : ℝ) * (2 : ℝ) ^ (2 * k) = n * ((2 : ℝ) ^ (k - j)) ^ 2 := by
      rw [hpow, hn]
      push_cast
      ring
    rw [hsq, Real.sqrt_mul n.cast_nonneg, Real.sqrt_sq (by positivity)]
  have hbig : 2 ^ j ≤ isqrt n := by
    refine le_isqrt_of_sq_le ?_
    rw [← pow_add, ← two_mul]
    exact Nat.le_mul_of_pos_left _ (Nat.pos_of_ne_zero hm)
  have hdef : sqrtEven F m (2 * k) = roundFrac F false
      (2 * isqrt n + (if isqrt n * isqrt n = n then 0 else 1)) 1 (k - j - 1) := by
    rw [sqrtEven, Int.mul_ediv_cancel_left k two_ne_zero]
  rw [hroot, hdef]
  exact roundFrac_isqrt_roundsTo F (k - j) ((Nat.pow_le_pow_right two_pos (by omega)).trans hbig)

/-- The root of a positive value: an odd exponent is made even first. -/
theorem sqrtPositive_roundsTo (F : Fmt) {m : Nat} (e : Int) (hm : m ≠ 0) :
    RoundsTo F (√((m : ℝ) * (2 : ℝ) ^ e)) (sqrtPositive F m e) := by
  unfold sqrtPositive
  split
  · next hodd =>
    obtain ⟨k, rfl⟩ : ∃ k, e = 2 * k + 1 := ⟨e / 2, by omega⟩
    have h := sqrtEven_roundsTo F (m := 2 * m) k (by omega)
    rw [add_sub_cancel_right]
    convert h using 2
    rw [zpow_add_one₀ two_ne_zero]
    push_cast
    ring
  · next heven =>
    obtain ⟨k, rfl⟩ : ∃ k, e = 2 * k := ⟨e / 2, by omega⟩
    exact sqrtEven_roundsTo F k hm

theorem Fp.sqrt_roundsTo {F : Fmt} {a : Fp} {x : ℝ} (ha : a.isReal x) (hx : 0 < x) :
    RoundsTo F (√x) (.sqrt F a) := by
  obtain ⟨neg, m, e, rfl, rfl⟩ := ha
  have hm : m ≠ 0 := finReal_eq_zero_iff.not.1 hx.ne'
  have hneg : neg = false := by
    have := finReal_neg_iff.not.1 hx.le.not_gt
    simpa [hm] using this
  subst hneg
  simpa [Fp.sqrt, hm] using sqrtPositive_roundsTo F e hm

theorem Fp.sqrt_of_neg {F : Fmt} {a : Fp} {x : ℝ} (ha : a.isReal x) (hx : x < 0) :
    Fp.sqrt F a = .nan := by
  obtain ⟨neg, m, e, rfl, rfl⟩ := ha
  obtain ⟨rfl, hm⟩ := finReal_neg_iff.1 hx
  simp [Fp.sqrt, hm]

/-- Settles O39: the special cases are equations of the primitive. -/
theorem squareRootCorrectlyRounded : Obligations.SquareRootCorrectlyRounded := fun _ =>
  ⟨fun _ _ => Fp.sqrt_roundsTo, fun _ _ => Fp.sqrt_of_neg, rfl, fun _ => rfl, rfl⟩

end Sys2Proof.Machine

/-! # Encodings (42_fp_conversion_and_reals.md R126, R129)

A word of the format's width is the encoding of its three fields, and `ofFields` is the value R126
gives them. Unpacking reads the fields of a word, packing finds the fields of a value. -/

namespace Sys2Proof.Machine

/-! ### Fields -/

/-- The value of a sign, a biased exponent and a fraction (42_fp_conversion_and_reals.md R126). -/
def ofFields (F : Fmt) (neg : Bool) (E T : Nat) : Fp :=
  if E = expOnes F then (if T = 0 then .inf neg else .nan)
  else if E = 0 then .fin neg T F.minQuantum
  else .fin neg (2 ^ F.fracBits + T) (F.minQuantum + ((E : Int) - 1))

theorem Fp.unpack_eq_ofFields (F : Fmt) (w : Word64) :
    Fp.unpack F w = ofFields F (w.getLsbD (F.width - 1))
      (w.extractLsb' F.fracBits F.expBits).toNat (w.extractLsb' 0 F.fracBits).toNat := by
  have hsign : w.getLsbD (F.width - 1) = decide (2 ^ (F.width - 1) ≤ w.toNat % 2 ^ F.width) := by
    rw [BitVec.getLsbD, Nat.testBit_eq_decide_div_mod_eq, decide_eq_decide]
    cases F <;> simp only [Fmt.width] <;> omega
  have hexp : (w.extractLsb' F.fracBits F.expBits).toNat =
      w.toNat % 2 ^ F.width / 2 ^ F.fracBits % 2 ^ F.expBits := by
    rw [BitVec.extractLsb'_toNat, Nat.shiftRight_eq_div_pow]
    cases F <;> simp only [Fmt.width, Fmt.fracBits, Fmt.precision, Fmt.expBits] <;> omega
  have hfrac : (w.extractLsb' 0 F.fracBits).toNat = w.toNat % 2 ^ F.width % 2 ^ F.fracBits := by
    rw [BitVec.extractLsb'_toNat, Nat.shiftRight_zero]
    cases F <;> simp only [Fmt.width, Fmt.fracBits, Fmt.precision] <;> omega
  rw [hsign, hexp, hfrac]
  rfl

section
variable {F : Fmt} {neg : Bool} {E T : Nat} (hE : E < 2 ^ F.expBits) (hT : T < 2 ^ F.fracBits)
include hE hT

theorem encoding_toNat : (encoding F neg E T).toNat =
    (if neg then 2 ^ (F.width - 1) else 0) + E * 2 ^ F.fracBits + T := by
  rw [encoding, BitVec.toNat_ofNat]
  refine Nat.mod_eq_of_lt ?_
  cases F <;> cases neg <;>
    simp only [Fmt.width, Fmt.fracBits, Fmt.precision, Fmt.expBits, Bool.false_eq_true, if_false,
      if_true] at hE hT ⊢ <;> omega

/-- The fields of a word read back, in the numbers of each format. -/
theorem encoding_fields :
    (encoding F neg E T).toNat < 2 ^ F.width ∧
      decide (2 ^ (F.width - 1) ≤ (encoding F neg E T).toNat) = neg ∧
      (encoding F neg E T).toNat / 2 ^ F.fracBits % 2 ^ F.expBits = E ∧
      (encoding F neg E T).toNat % 2 ^ F.fracBits = T := by
  rw [encoding_toNat hE hT]
  cases F <;> cases neg <;>
    simp only [Fmt.width, Fmt.fracBits, Fmt.precision, Fmt.expBits, Bool.false_eq_true, if_false,
      if_true, decide_eq_true_eq, decide_eq_false_iff_not] at hE hT ⊢ <;> omega

theorem unpack_encoding : Fp.unpack F (encoding F neg E T) = ofFields F neg E T := by
  obtain ⟨hlt, hsign, hexp, hfrac⟩ := encoding_fields (neg := neg) hE hT
  simp only [Fp.unpack, Nat.mod_eq_of_lt hlt, hsign, hexp, hfrac]
  rfl

end

theorem exists_encoding {F : Fmt} {w : Word64} (hw : w.toNat < 2 ^ F.width) :
    ∃ neg E T, E < 2 ^ F.expBits ∧ T < 2 ^ F.fracBits ∧ encoding F neg E T = w := by
  refine ⟨decide (2 ^ (F.width - 1) ≤ w.toNat), w.toNat / 2 ^ F.fracBits % 2 ^ F.expBits,
    w.toNat % 2 ^ F.fracBits, Nat.mod_lt _ (Nat.two_pow_pos _), Nat.mod_lt _ (Nat.two_pow_pos _),
    BitVec.eq_of_toNat_eq ?_⟩
  simp only [encoding, BitVec.toNat_ofNat, decide_eq_true_eq]
  split <;> cases F <;>
    simp only [Fmt.width, Fmt.fracBits, Fmt.precision, Fmt.expBits] at * <;> omega

/-! ### Values -/

theorem expOnes_lt (F : Fmt) : expOnes F < 2 ^ F.expBits := by cases F <;> decide

theorem two_le_expOnes (F : Fmt) : 2 ≤ expOnes F := by cases F <;> decide

theorem emax_quantum (F : Fmt) : F.minQuantum + (expOnes F : Int) = F.emax - F.fracBits + 2 := by
  cases F <;> rfl

theorem ofFields_canonical {F : Fmt} {neg : Bool} {E T : Nat} (hE : E < 2 ^ F.expBits)
    (hT : T < 2 ^ F.fracBits) : (ofFields F neg E T).canonical F := by
  have hp := two_pow_precision F
  have hmax := emax_quantum F
  have hones : E ≤ expOnes F := Nat.le_sub_one_of_lt hE
  have := two_le_expOnes F
  unfold ofFields
  split
  · split <;> trivial
  split
  · exact ⟨by omega, le_rfl, by omega, fun _ => rfl⟩
  · exact ⟨by omega, by omega, by omega, fun h => absurd h (by omega)⟩

/-- Packing finds the fields of a value that is no NaN. -/
theorem pack_ofFields {F : Fmt} {neg : Bool} {E T : Nat} (hT : T < 2 ^ F.fracBits)
    (hnan : ofFields F neg E T ≠ .nan) (d : Word64) :
    (ofFields F neg E T).pack F d = encoding F neg E T := by
  unfold ofFields at hnan ⊢
  split at hnan
  · next hones =>
    split at hnan
    · next hzero => simp [hones, hzero, Fp.pack]
    · exact absurd rfl hnan
  · next hones =>
    rw [if_neg hones]
    split
    · next hzero => simp [Fp.pack, hT, hzero]
    · next hzero =>
      simp [Fp.pack]

/-- Every canonical value is a NaN or has fields. -/
theorem Fp.canonical.exists_fields {F : Fmt} {v : Fp} (hv : v.canonical F) (hnan : v ≠ .nan) :
    ∃ neg E T, E < 2 ^ F.expBits ∧ T < 2 ^ F.fracBits ∧ ofFields F neg E T = v := by
  have hp := two_pow_precision F
  have hmax := emax_quantum F
  have hones := expOnes_lt F
  have hpos := two_le_expOnes F
  match v with
  | .nan => exact absurd rfl hnan
  | .inf neg => exact ⟨neg, expOnes F, 0, hones, Nat.two_pow_pos _, by simp [ofFields]⟩
  | .fin neg m e =>
    obtain ⟨hm, hmin, he, hsub⟩ := hv
    rcases Nat.lt_or_ge m (2 ^ F.fracBits) with hlt | hge
    · refine ⟨neg, 0, m, by omega, hlt, ?_⟩
      rw [ofFields, if_neg (by omega), if_pos rfl, hsub hlt]
    · refine ⟨neg, (e - F.minQuantum + 1).toNat, m - 2 ^ F.fracBits, by omega, by omega, ?_⟩
      rw [ofFields, if_neg (by omega), if_neg (by omega)]
      congr 1 <;> omega

theorem ofFields_eq_nan_iff {F : Fmt} {neg : Bool} {E T : Nat} :
    ofFields F neg E T = .nan ↔ E = expOnes F ∧ T ≠ 0 := by
  unfold ofFields
  split
  · split <;> simp_all
  · split <;> simp_all

/-! ### NaNs -/

/-- The fraction of the NaN a draw stands for (42_fp_conversion_and_reals.md R129, log 4). -/
theorem nanEncoding_eq (F : Fmt) (d : Word64) : ∃ T, T ≠ 0 ∧ T < 2 ^ F.fracBits ∧
    nanEncoding F d = encoding F d.msb (expOnes F) T := by
  have hone : 1 < 2 ^ F.fracBits := by cases F <;> decide
  have hmod := Nat.mod_lt d.toNat (Nat.two_pow_pos F.fracBits)
  refine ⟨_, ?_, ?_, rfl⟩ <;> split <;> omega

theorem unpack_nanEncoding (F : Fmt) (d : Word64) : Fp.unpack F (nanEncoding F d) = .nan := by
  obtain ⟨T, hT0, hT, h⟩ := nanEncoding_eq F d
  rw [h, unpack_encoding (expOnes_lt F) hT, ofFields_eq_nan_iff]
  exact ⟨rfl, hT0⟩

theorem nanEncoding_lt (F : Fmt) (d : Word64) : (nanEncoding F d).toNat < 2 ^ F.width := by
  obtain ⟨T, -, hT, h⟩ := nanEncoding_eq F d
  rw [h]
  exact (encoding_fields (expOnes_lt F) hT).1

/-- Every NaN encoding has a draw: the sign as its top bit, the fraction as its low bits. -/
theorem exists_nanEncoding (F : Fmt) (neg : Bool) {T : Nat} (hT0 : T ≠ 0)
    (hT : T < 2 ^ F.fracBits) : ∃ d, nanEncoding F d = encoding F neg (expOnes F) T := by
  refine ⟨BitVec.ofNat 64 ((if neg then 2 ^ 63 else 0) + T), ?_⟩
  set d := BitVec.ofNat 64 ((if neg then 2 ^ 63 else 0) + T) with hd
  have hmsb : d.msb = neg := by
    rw [BitVec.msb_eq_decide, hd, BitVec.toNat_ofNat]
    cases F <;> cases neg <;> simp [Fmt.fracBits, Fmt.precision] at hT ⊢ <;> omega
  have hmod : d.toNat % 2 ^ F.fracBits = T := by
    rw [hd, BitVec.toNat_ofNat]
    cases F <;> cases neg <;> simp [Fmt.fracBits, Fmt.precision] at hT ⊢ <;> omega
  rw [nanEncoding, hmsb, hmod, if_neg hT0]

/-! ### The correspondence -/

theorem unpack_pack {F : Fmt} {v : Fp} (hv : v.canonical F) (d : Word64) :
    (v.pack F d).toNat < 2 ^ F.width ∧ Fp.unpack F (v.pack F d) = v := by
  by_cases hnan : v = .nan
  · subst hnan
    exact ⟨nanEncoding_lt F d, unpack_nanEncoding F d⟩
  · obtain ⟨neg, E, T, hE, hT, rfl⟩ := hv.exists_fields hnan
    rw [pack_ofFields hT hnan]
    exact ⟨(encoding_fields hE hT).1, unpack_encoding hE hT⟩

section
variable {F : Fmt} {w : Word64} (hw : w.toNat < 2 ^ F.width)
include hw

theorem unpack_canonical : (Fp.unpack F w).canonical F := by
  obtain ⟨neg, E, T, hE, hT, rfl⟩ := exists_encoding hw
  rw [unpack_encoding hE hT]
  exact ofFields_canonical hE hT

theorem pack_unpack (hnan : Fp.unpack F w ≠ .nan) (d : Word64) :
    (Fp.unpack F w).pack F d = w := by
  obtain ⟨neg, E, T, hE, hT, rfl⟩ := exists_encoding hw
  rw [unpack_encoding hE hT] at hnan ⊢
  exact pack_ofFields hT hnan d

theorem unpack_eq_nan_iff : Fp.unpack F w = .nan ↔ ∃ d, nanEncoding F d = w := by
  constructor
  · obtain ⟨neg, E, T, hE, hT, rfl⟩ := exists_encoding hw
    intro hnan
    rw [unpack_encoding hE hT, ofFields_eq_nan_iff] at hnan
    obtain ⟨rfl, hT0⟩ := hnan
    exact exists_nanEncoding F neg hT0 hT
  · rintro ⟨d, rfl⟩
    exact unpack_nanEncoding F d

end

/-- The four rows of the table of R126. -/
theorem ofFields_table (F : Fmt) (neg : Bool) (E T : Nat) :
    ((E : Int) = 0 → ofFields F neg E T = .fin neg T (F.emin - F.fracBits)) ∧
    (0 < (E : Int) → (E : Int) < 2 ^ F.expBits - 1 →
      ofFields F neg E T = .fin neg (2 ^ F.fracBits + T) (E - F.emax - F.fracBits)) ∧
    ((E : Int) = 2 ^ F.expBits - 1 → T = 0 → ofFields F neg E T = .inf neg) ∧
    ((E : Int) = 2 ^ F.expBits - 1 → T ≠ 0 → ofFields F neg E T = .nan) := by
  have hones : (2 : Int) ^ F.expBits - 1 = expOnes F := by cases F <;> rfl
  have htwo := two_le_expOnes F
  have hbias : F.emin = 1 - F.emax := by cases F <;> rfl
  have hmin := F.minQuantum_eq
  rw [hones]
  refine ⟨fun h => ?_, fun h0 h1 => ?_, fun h hT => ?_, fun h hT => ?_⟩
  · rw [ofFields, if_neg (by omega), if_pos (by omega), hmin]
  · rw [ofFields, if_neg (by omega), if_neg (by omega)]
    congr 1
    omega
  · rw [ofFields, if_pos (by omega), if_pos hT]
  · rw [ofFields, if_pos (by omega), if_neg hT]

/-- Settles O41: the table by `ofFields_table`, in the field positions of each format, and the
correspondence by packing and unpacking. -/
theorem encodingsCorrespondToValues : Obligations.EncodingsCorrespondToValues := by
  intro F
  refine ⟨fun w => ?_, ?_, ?_, ?_, fun w hw => ⟨unpack_canonical hw, pack_unpack hw,
    unpack_eq_nan_iff hw⟩, fun v d hv => unpack_pack hv d⟩
  · rw [Fp.unpack_eq_ofFields]
    cases F with
    | b32 => exact ofFields_table .b32 _ _ _
    | b64 => exact ofFields_table .b64 _ _ _
  all_goals cases F <;> decide +kernel

end Sys2Proof.Machine

/-! # The uniform reals (42_fp_conversion_and_reals.md R140 to R146)

`unorm` and `snorm` are one quotient of integers, rounded twice, and rounding is monotone. So a
range in which the quotient has one value is known from its end points and their neighbours. -/

namespace Sys2Proof.Machine

/-! ### Powers of two in either format -/

theorem representable_two_zpow (F : Fmt) {k : Int} (hmin : F.minQuantum ≤ k) (hmax : k ≤ F.emax) :
    Representable F ((2 : ℝ) ^ k) := by
  have hlt : ((1 : Nat) : ℝ) * (2 : ℝ) ^ k < (2 : ℝ) ^ (F.emax + 1) := by
    rw [Nat.cast_one, one_mul]
    exact zpow_lt_zpow_right₀ one_lt_two (by omega)
  simpa using representable_of_le (Nat.one_le_two_pow) hmin hlt

theorem minQuantum_le (F : Fmt) : F.minQuantum ≤ -149 := by cases F <;> decide

theorem le_emax (F : Fmt) : 127 ≤ F.emax := by cases F <;> decide

theorem representable_one (F : Fmt) : Representable F 1 := by
  have := minQuantum_le F
  have := le_emax F
  simpa using representable_two_zpow F (k := 0) (by omega) (by omega)

theorem representable_two_pow_64 (F : Fmt) : Representable F ((2 : ℝ) ^ (64 : Nat)) := by
  have := minQuantum_le F
  have := le_emax F
  exact_mod_cast representable_two_zpow F (k := 64) (by omega) (by omega)

/-- Doubling keeps a value of the format, unless it leaves the range. -/
theorem Representable.double {F : Fmt} {x : ℝ} (hx : Representable F x)
    (hlt : |x| < (2 : ℝ) ^ F.emax) : Representable F (x * 2) := by
  obtain ⟨_, hc, neg, m, e, rfl, rfl⟩ := hx
  obtain ⟨hm, he, -, -⟩ := hc
  have hmag : Representable F ((m : ℝ) * (2 : ℝ) ^ (e + 1)) := by
    refine representable_of_le hm.le (by omega) ?_
    rw [mul_assoc, abs_signFactor_mul, abs_of_nonneg (by positivity)] at hlt
    rw [zpow_add_one₀ two_ne_zero, zpow_add_one₀ two_ne_zero]
    linarith
  rw [zpow_add_one₀ two_ne_zero, ← mul_assoc] at hmag
  cases neg
  · simpa using hmag
  · simpa using hmag.neg

/-! ### The quotient -/

/-- An integer converted and divided by the converted maximum: `unorm` of an output and `snorm` of
its shifted signed reading (42_fp_conversion_and_reals.md R140). -/
def genQuotient (g : Gen) (F : Fmt) (i : Int) : Fp := .div F (.cvt F i) (fmax g F)

theorem unorm_eq_genQuotient (g : Gen) (F : Fmt) (v : Word64) :
    unorm g F v = genQuotient g F v.toNat := rfl

theorem snorm_eq_genQuotient (g : Gen) (F : Fmt) (v : Word64) :
    snorm g F v = genQuotient g F (2 * sgn g v) := rfl

theorem genQuotient_canonical (g : Gen) (F : Fmt) (i : Int) : (genQuotient g F i).canonical F :=
  Fp.canonical_div F _ _

theorem fmax_isReal (g : Gen) (F : Fmt) :
    ∃ M : ℝ, (fmax g F).isReal M ∧ 1 ≤ M ∧ M ≤ (2 : ℝ) ^ (64 : Nat) := by
  have hr : Rounds F (((genMax g).toNat : Int) : ℝ) (fmax g F) := Fp.cvt_rounds F _
  have hlo : (1 : ℝ) ≤ (((genMax g).toNat : Int) : ℝ) := by
    have : 1 ≤ (genMax g).toNat := by cases g <;> decide
    exact_mod_cast this
  have hhi : |(((genMax g).toNat : Int) : ℝ)| ≤ (2 : ℝ) ^ (64 : Nat) := by
    rw [abs_of_nonneg (zero_le_one.trans hlo)]
    exact_mod_cast (genMax g).isLt.le
  obtain ⟨M, hM, hbound⟩ := hr.finite_of_abs_le (representable_two_pow_64 F) hhi
  exact ⟨M, hM, hr.le_of_le hM (representable_one F) hlo, (le_abs_self M).trans hbound⟩

/-- The integers that are divided are in range of every format. -/
theorem cvt_isReal (F : Fmt) {i : Int} (hi : |i| ≤ 2 ^ 64) :
    ∃ c : ℝ, (Fp.cvt F i).isReal c ∧ |c| ≤ (2 : ℝ) ^ (64 : Nat) := by
  have h64 := representable_two_pow_64 F
  have hr := Fp.cvt_rounds F i
  have hbound : |(i : ℝ)| ≤ (2 : ℝ) ^ (64 : Nat) := by exact_mod_cast hi
  exact hr.finite_of_abs_le h64 hbound

/-- The quotient is the rounded quotient of what its two conversions give. -/
theorem genQuotient_rounds {g : Gen} {F : Fmt} {i : Int} {c M : ℝ} (hc : (Fp.cvt F i).isReal c)
    (hM : (fmax g F).isReal M) (h1 : 1 ≤ M) : Rounds F (c / M) (genQuotient g F i) :=
  Fp.div_rounds hc hM (zero_lt_one.trans_le h1).ne'

theorem genQuotient_isReal (g : Gen) (F : Fmt) {i : Int} (hi : |i| ≤ 2 ^ 64) :
    ∃ x : ℝ, (genQuotient g F i).isReal x ∧ |x| ≤ (2 : ℝ) ^ (64 : Nat) := by
  obtain ⟨M, hM, h1, -⟩ := fmax_isReal g F
  obtain ⟨c, hc, hbound⟩ := cvt_isReal F hi
  have hquot : |c / M| ≤ (2 : ℝ) ^ (64 : Nat) := by
    rw [abs_div, abs_of_pos (zero_lt_one.trans_le h1)]
    exact (div_le_self (abs_nonneg c) h1).trans hbound
  exact (genQuotient_rounds hc hM h1).finite_of_abs_le (representable_two_pow_64 F) hquot

theorem genQuotient_ne_nan (g : Gen) (F : Fmt) {i : Int} (hi : |i| ≤ 2 ^ 64) :
    genQuotient g F i ≠ .nan := by
  obtain ⟨x, hx, -⟩ := genQuotient_isReal g F hi
  exact hx.ne_nan

/-- The quotient is monotone, because both its roundings are. -/
theorem genQuotient_mono {g : Gen} {F : Fmt} {i j : Int} (hi : |i| ≤ 2 ^ 64) (hj : |j| ≤ 2 ^ 64)
    (hij : i ≤ j) : Fp.le (genQuotient g F i) (genQuotient g F j) = true := by
  obtain ⟨M, hM, h1, -⟩ := fmax_isReal g F
  obtain ⟨c, hc, -⟩ := cvt_isReal F hi
  obtain ⟨d, hd, -⟩ := cvt_isReal F hj
  obtain ⟨x, hx, -⟩ := genQuotient_isReal g F hi
  obtain ⟨y, hy, -⟩ := genQuotient_isReal g F hj
  have hcd : c ≤ d := (Fp.cvt_rounds F i).mono (Fp.cvt_rounds F j) hc hd (by exact_mod_cast hij)
  have hquot : c / M ≤ d / M := div_le_div_of_nonneg_right hcd (zero_le_one.trans h1)
  exact (Fp.le_iff hx hy).2
    ((genQuotient_rounds hc hM h1).mono (genQuotient_rounds hd hM h1) hx hy hquot)

/-! ### Outputs and their readings -/

theorem abs_toNat_le (v : Word64) : |(v.toNat : Int)| ≤ 2 ^ 64 := by
  have := v.isLt
  rw [abs_of_nonneg (by omega)]
  omega

/-- The signed readings of a generator lie in `[-halfRange, halfRange)` (00_scope.md R13). -/
def halfRange : Gen → Int
  | .g32 => 2 ^ 31
  | .g64 => 2 ^ 63

theorem sgn_range (g : Gen) (v : Word64) : -halfRange g ≤ sgn g v ∧ sgn g v ≤ halfRange g - 1 := by
  cases g with
  | g32 =>
    have hlo := (v.setWidth 32).le_two_mul_toInt
    have hhi := (v.setWidth 32).two_mul_toInt_lt
    simp only [sgn, halfRange]
    constructor <;> omega
  | g64 =>
    have hlo := v.le_two_mul_toInt
    have hhi := v.two_mul_toInt_lt
    simp only [sgn, halfRange]
    constructor <;> omega

theorem abs_double_le {g : Gen} {i : Int} (hlo : -halfRange g ≤ i) (hhi : i ≤ halfRange g - 1) :
    |2 * i| ≤ 2 ^ 64 := by
  rw [abs_le]
  cases g <;> simp only [halfRange] at hlo hhi <;> constructor <;> omega

theorem abs_shl1_le (g : Gen) (v : Word64) : |2 * sgn g v| ≤ 2 ^ 64 := by
  obtain ⟨hlo, hhi⟩ := sgn_range g v
  exact abs_double_le hlo hhi

theorem sgn_stepOut (g : Gen) (s : State) : sgn g (s.stepOut g) =
    match g with
    | .g32 => s.g32.out.toInt
    | .g64 => s.g64.out.toInt := by
  cases g with
  | g32 => exact congrArg BitVec.toInt (BitVec.setWidth_setWidth_of_le s.g32.out (by decide))
  | g64 => rfl

/-! ### The commands -/

theorem Fp.pack_eq_of_ne_nan {v : Fp} (hv : v ≠ .nan) (F : Fmt) (d d' : Word64) :
    v.pack F d = v.pack F d' := by
  cases v with
  | nan => exact absurd rfl hv
  | inf | fin => rfl

theorem drawsAfter_of_ne_nan {v : Fp} (hv : v ≠ .nan) (n : Nat) : drawsAfter n v = n := by
  cases v with
  | nan => exact absurd rfl hv
  | inf | fin => rfl

/-- A result that is no NaN draws no encoding (log 4). -/
theorem State.respondReal_of_ne_nan {v : Fp} (hv : v ≠ .nan) (F : Fmt) (d : Word64) (s : State) :
    s.respondReal F v = { s with phase := .responding ⟨.ok, v.pack F d, 0, 0⟩ } := by
  rw [State.respondReal, drawsAfter_of_ne_nan hv, resultWord, Fp.pack_eq_of_ne_nan hv F _ d]
  rfl

theorem unorm_ne_nan (g : Gen) (F : Fmt) (v : Word64) : unorm g F v ≠ .nan :=
  genQuotient_ne_nan g F (abs_toNat_le v)

theorem snorm_ne_nan (g : Gen) (F : Fmt) (v : Word64) : snorm g F v ≠ .nan :=
  genQuotient_ne_nan g F (abs_shl1_le g v)

section
variable (g : Gen) (F : Fmt) (s : State)

theorem exec_real : exec (.real g F) s =
    .next ((s.advance g).respondReal F (unorm g F (s.stepOut g))) := by
  rw [← State.genOut_eq_stepOut]
  rfl

theorem exec_realn : exec (.realn g F) s =
    .next ((s.advance g).respondReal F (snorm g F (s.stepOut g))) := by
  rw [← State.genOut_eq_stepOut]
  rfl

theorem exec_real2 : exec (.real2 g F) s =
    .next ((s.advance g).respondReal F (.mul F (unorm g F (s.stepOut g)) (.cvt F 2))) := by
  rw [← State.genOut_eq_stepOut]
  rfl

theorem exec_realn2 : exec (.realn2 g F) s =
    .next ((s.advance g).respondReal F (.mul F (snorm g F (s.stepOut g)) (.cvt F 2))) := by
  rw [← State.genOut_eq_stepOut]
  rfl

end

/-- Settles O43: `unorm` is no NaN. -/
theorem realReturnsUnorm : Obligations.RealReturnsUnorm := by
  refine fun g F => ⟨decode_eq_ok_iff.2 (by cases g <;> cases F <;> decide), fun s d => ?_⟩
  rw [exec_real, State.respondReal_of_ne_nan (unorm_ne_nan g F (s.stepOut g)) F d]
  rfl

/-- Settles O44: `snorm` reads the output itself as a signed number, and is no NaN. -/
theorem realnReturnsSnorm : Obligations.RealnReturnsSnorm := by
  refine fun g F => ⟨decode_eq_ok_iff.2 (by cases g <;> cases F <;> decide), fun s d => ?_⟩
  rw [exec_realn, State.respondReal_of_ne_nan (snorm_ne_nan g F (s.stepOut g)) F d,
    snorm_eq_genQuotient, sgn_stepOut]
  rfl

theorem cvt_two_isReal (F : Fmt) : (Fp.cvt F 2).isReal 2 := by
  have := minQuantum_le F
  have := le_emax F
  have hrep := representable_two_zpow F (k := 1) (by omega) (by omega)
  rw [zpow_one] at hrep
  exact_mod_cast (Fp.cvt_rounds F 2).isReal_self (by exact_mod_cast hrep)

/-- The multiplication by 2.0 is exact (42_fp_conversion_and_reals.md R143, R144). -/
theorem genQuotient_mul_two (g : Gen) (F : Fmt) {i : Int} (hi : |i| ≤ 2 ^ 64) :
    ∃ x : ℝ, (genQuotient g F i).isReal x ∧
      (Fp.mul F (genQuotient g F i) (.cvt F 2)).isReal (2 * x) := by
  obtain ⟨x, hx, hbound⟩ := genQuotient_isReal g F hi
  have hlt : |x| < (2 : ℝ) ^ F.emax := by
    have := le_emax F
    refine hbound.trans_lt ?_
    exact_mod_cast zpow_lt_zpow_right₀ (one_lt_two (α := ℝ)) (by omega : (64 : Int) < F.emax)
  have hrep : Representable F (x * 2) :=
    Representable.double ⟨_, genQuotient_canonical g F i, hx⟩ hlt
  exact ⟨x, hx, mul_comm x 2 ▸ (Fp.mul_rounds hx (cvt_two_isReal F)).isReal_self hrep⟩

/-- Settles O45, by `genQuotient_mul_two`. -/
theorem real2ReturnsTwice : Obligations.Real2ReturnsTwice := by
  refine fun g F => ⟨decode_eq_ok_iff.2 (by cases g <;> cases F <;> decide), fun s => ?_⟩
  obtain ⟨x, hx, htwice⟩ := genQuotient_mul_two g F (abs_toNat_le (s.stepOut g))
  refine ⟨fun d => ?_, x, hx, htwice⟩
  rw [exec_real2, unorm_eq_genQuotient, State.respondReal_of_ne_nan htwice.ne_nan F d]

/-- Settles O46, by `genQuotient_mul_two`. -/
theorem realn2ReturnsTwice : Obligations.Realn2ReturnsTwice := by
  refine fun g F => ⟨decode_eq_ok_iff.2 (by cases g <;> cases F <;> decide), fun s => ?_⟩
  obtain ⟨x, hx, htwice⟩ := genQuotient_mul_two g F (abs_shl1_le g (s.stepOut g))
  refine ⟨fun d => ?_, x, hx, htwice⟩
  rw [exec_realn2, snorm_eq_genQuotient, State.respondReal_of_ne_nan htwice.ne_nan F d]

/-! ### Ranges with one value -/

theorem Fp.isReal_of_le_of_le {a w : Fp} {y : ℝ} (hw : w.isReal y) (haw : Fp.le a w = true)
    (hwa : Fp.le w a = true) : a.isReal y := by
  obtain ⟨nw, mw, ew, rfl, hy⟩ := id hw
  match a with
  | .nan => exact absurd haw (by simp [Fp.le])
  | .inf neg => cases neg <;> simp [Fp.le] at haw hwa
  | .fin na ma ea =>
    have ha := Fp.isReal_fin na ma ea
    exact le_antisymm ((Fp.le_iff ha hw).1 haw) ((Fp.le_iff hw ha).1 hwa) ▸ ha

theorem Fp.le_refl {a : Fp} {x : ℝ} (ha : a.isReal x) : Fp.le a a = true :=
  (Fp.le_iff ha ha).2 le_rfl

section
variable {F : Fmt} {q : Int → Fp} {lo hi : Int} (hcan : ∀ i, (q i).canonical F)
  (hmono : ∀ i j, lo ≤ i → i ≤ j → j ≤ hi → Fp.le (q i) (q j) = true)
  {w : Fp} {y : ℝ} (hw : w.isReal y) (hwc : w.canonical F) (hy : y ≠ 0) {i t : Int}
include hmono

theorem monotone_ne_of_le (hit : i ≤ t) (hilo : lo ≤ i) (hthi : t ≤ hi)
    (ht : Fp.le w (q t) = false) : q i ≠ w := by
  rintro rfl
  simp [hmono i t hilo hit hthi] at ht

theorem monotone_ne_of_ge (hti : t ≤ i) (htlo : lo ≤ t) (hihi : i ≤ hi)
    (ht : Fp.le (q t) w = false) : q i ≠ w := by
  rintro rfl
  simp [hmono t i htlo hti hihi] at ht

include hcan hw hwc hy

theorem monotone_eq_between {s : Int} (hs : q s = w) (ht : q t = w) (hlo : lo ≤ s) (hsi : s ≤ i)
    (hit : i ≤ t) (hhi : t ≤ hi) : q i = w := by
  have hsi' := hmono s i hlo hsi (hit.trans hhi)
  have hit' := hmono i t (hlo.trans hsi) hit hhi
  rw [hs] at hsi'
  rw [ht] at hit'
  exact (hcan i).ext hwc (Fp.isReal_of_le_of_le hw hit' hsi') hw hy

theorem monotone_eq_iff_ge (hhi : q hi = w) (ht : q t = w) (hbelow : Fp.le w (q (t - 1)) = false)
    (htlo : lo < t) (hthi : t ≤ hi) (hilo : lo ≤ i) (hihi : i ≤ hi) : q i = w ↔ t ≤ i := by
  constructor
  · intro h
    by_contra! hlt
    exact monotone_ne_of_le hmono (t := t - 1) (by omega) hilo (by omega) hbelow h
  · exact fun h => monotone_eq_between hcan hmono hw hwc hy ht hhi htlo.le h hihi le_rfl

theorem monotone_eq_iff_le (hlo : q lo = w) (ht : q t = w) (habove : Fp.le (q (t + 1)) w = false)
    (htlo : lo ≤ t) (hthi : t < hi) (hilo : lo ≤ i) (hihi : i ≤ hi) : q i = w ↔ i ≤ t := by
  constructor
  · intro h
    by_contra! hlt
    exact monotone_ne_of_ge hmono (t := t + 1) (by omega) (by omega) hihi habove h
  · exact fun h => monotone_eq_between hcan hmono hw hwc hy hlo ht le_rfl hilo h hthi.le

end

/-! ### `unorm` -/

theorem Fp.cvt_sign {F : Fmt} {i : Int} {neg : Bool} {m : Nat} {e : Int}
    (h : Fp.cvt F i = .fin neg m e) : neg = decide (i < 0) := roundFrac_sign h

theorem Fp.div_sign {F : Fmt} {na nb neg : Bool} {ma mb m : Nat} {ea eb e : Int}
    (h : Fp.div F (.fin na ma ea) (.fin nb mb eb) = .fin neg m e) : neg = (na ^^ nb) := by
  simp only [Fp.div] at h
  split at h
  · split at h <;> cases h
  · exact roundFrac_sign h

theorem genQuotient_sign {g : Gen} {F : Fmt} {i : Int} (hi : |i| ≤ 2 ^ 64) :
    ∃ m e, genQuotient g F i = .fin (decide (i < 0)) m e := by
  obtain ⟨x, hx, -⟩ := genQuotient_isReal g F hi
  obtain ⟨c, hc, -⟩ := cvt_isReal F hi
  obtain ⟨M, hM, -⟩ := fmax_isReal g F
  obtain ⟨neg, m, e, hq, -⟩ := hx
  obtain ⟨nc, mc, ec, hc, -⟩ := hc
  obtain ⟨nM, mM, eM, hM, -⟩ := hM
  have hnM : nM = false := by
    rw [Fp.cvt_sign hM]
    exact decide_eq_false (by omega)
  have hsign : Fp.div F (.fin nc mc ec) (.fin nM mM eM) = .fin neg m e := by
    rw [← hc, ← hM]
    exact hq
  rw [hq, Fp.div_sign hsign, hnM, Fp.cvt_sign hc, Bool.xor_false]
  exact ⟨m, e, rfl⟩

theorem genQuotient_zero (g : Gen) (F : Fmt) :
    genQuotient g F 0 = .fin false 0 F.minQuantum := by
  cases g <;> cases F <;> decide +kernel

theorem genQuotient_genMax (g : Gen) (F : Fmt) :
    genQuotient g F (genMax g).toNat = .one F := by
  cases g <;> cases F <;> decide +kernel

theorem one_isReal (F : Fmt) : (Fp.one F).isReal 1 := by
  exact_mod_cast (Fp.cvt_rounds F 1).isReal_self (by exact_mod_cast representable_one F)

theorem minusOne_isReal (F : Fmt) : (Fp.one F).neg.isReal (-1) := by
  obtain ⟨neg, m, e, h, hr⟩ := one_isReal F
  rw [h, hr]
  exact Fp.isReal_fin_iff.2 (by cases neg <;> simp)

theorem one_canonical (F : Fmt) : (Fp.one F).canonical F := Fp.canonical_cvt F 1

theorem minusOne_canonical (F : Fmt) : (Fp.one F).neg.canonical F := by
  cases F <;> exact ⟨by decide, by decide, by decide, by decide⟩

theorem genMax_le (g : Gen) : |((genMax g).toNat : Int)| ≤ 2 ^ 64 := abs_toNat_le _

/-- `unorm` is 1.0 exactly from `t` on (42_fp_conversion_and_reals.md R145). -/
theorem unorm_eq_one_iff {g : Gen} {F : Fmt} {t : Nat} (ht : genQuotient g F t = .one F)
    (hbelow : Fp.le (.one F) (genQuotient g F ((t : Int) - 1)) = false) (hpos : 0 < t)
    (htmax : t ≤ (genMax g).toNat) {w : Word64} (hw : w.toNat ≤ (genMax g).toNat) :
    unorm g F w = .one F ↔ t ≤ w.toNat := by
  have hmax := genMax_le g
  rw [abs_le] at hmax
  rw [unorm_eq_genQuotient, ← Int.ofNat_le]
  exact monotone_eq_iff_ge (lo := 0) (genQuotient_canonical g F)
    (fun i j hi hij hj => genQuotient_mono (abs_le.2 (by omega)) (abs_le.2 (by omega)) hij)
    (one_isReal F) (one_canonical F) one_ne_zero (genQuotient_genMax g F) ht hbelow (by omega)
    (by omega) (by omega) (by omega)

/-- Settles O47: 0 and the maximum bound the outputs, and each threshold is evaluated beside the
output below it. -/
theorem unormBoundsAndThresholds : Obligations.UnormBoundsAndThresholds := by
  intro g F v w hvw hw
  have hmono {i j : Nat} (hij : i ≤ j) (hj : j ≤ (genMax g).toNat) :
      Fp.le (genQuotient g F i) (genQuotient g F j) = true := by
    have := abs_le.1 (genMax_le g)
    exact genQuotient_mono (abs_le.2 (by omega)) (abs_le.2 (by omega)) (by omega)
  obtain ⟨x, hx, -⟩ := genQuotient_isReal g F (abs_toNat_le v)
  obtain ⟨y, hy, -⟩ := genQuotient_isReal g F (abs_toNat_le w)
  have hzero : (genQuotient g F (0 : Nat)).isReal 0 := by
    rw [Nat.cast_zero, genQuotient_zero]
    exact Fp.zero_isReal F false
  have hone : (genQuotient g F (genMax g).toNat).isReal 1 := genQuotient_genMax g F ▸ one_isReal F
  have hsign := genQuotient_sign (g := g) (F := F) (abs_toNat_le w)
  rw [decide_eq_false (by omega)] at hsign
  refine ⟨x, y, hx, hy, (Fp.le_iff hzero hx).1 (hmono (Nat.zero_le _) (hvw.trans hw)),
    (Fp.le_iff hx hy).1 (hmono hvw hw), (Fp.le_iff hy hone).1 (hmono hw le_rfl), hsign, ?_⟩
  cases g <;> cases F <;>
    exact unorm_eq_one_iff (by decide +kernel) (by decide +kernel) (by decide) (by decide) hw

/-! ### `snorm` -/

theorem sgn_eq {g : Gen} {v : Word64} (hv : v.toNat ≤ (genMax g).toNat) :
    sgn g v = if (v.toNat : Int) < halfRange g then (v.toNat : Int)
      else v.toNat - 2 * halfRange g := by
  cases g with
  | g32 =>
    have hmax : (genMax .g32).toNat = 2 ^ 32 - 1 := rfl
    rw [sgn, BitVec.toInt_eq_toNat_cond, BitVec.toNat_setWidth, Nat.mod_eq_of_lt (by omega),
      halfRange]
    split <;> split <;> omega
  | g64 =>
    rw [sgn, BitVec.toInt_eq_toNat_cond, halfRange]
    split <;> split <;> omega

/-- `snorm` of a signed reading. -/
def snormAt (g : Gen) (F : Fmt) (i : Int) : Fp := genQuotient g F (2 * i)

theorem snorm_eq_snormAt (g : Gen) (F : Fmt) (v : Word64) : snorm g F v = snormAt g F (sgn g v) :=
  rfl

theorem snormAt_canonical (g : Gen) (F : Fmt) (i : Int) : (snormAt g F i).canonical F :=
  genQuotient_canonical g F _

theorem snormAt_mono (g : Gen) (F : Fmt) (i j : Int) (hi : -halfRange g ≤ i) (hij : i ≤ j)
    (hj : j ≤ halfRange g - 1) : Fp.le (snormAt g F i) (snormAt g F j) = true :=
  genQuotient_mono (abs_double_le hi (hij.trans hj)) (abs_double_le (hi.trans hij) hj) (by omega)

section
variable {g : Gen} {F : Fmt} (v : Word64)

theorem snorm_eq_one_iff {t : Int} (hmax : snormAt g F (halfRange g - 1) = .one F)
    (ht : snormAt g F t = .one F) (hbelow : Fp.le (.one F) (snormAt g F (t - 1)) = false)
    (htlo : -halfRange g < t) (hthi : t ≤ halfRange g - 1) :
    snorm g F v = .one F ↔ t ≤ sgn g v := by
  obtain ⟨hlo, hhi⟩ := sgn_range g v
  exact monotone_eq_iff_ge (snormAt_canonical g F) (snormAt_mono g F) (one_isReal F)
    (one_canonical F) one_ne_zero hmax ht hbelow htlo hthi hlo hhi

theorem snorm_eq_minusOne_iff {t : Int} (hmin : snormAt g F (-halfRange g) = (Fp.one F).neg)
    (ht : snormAt g F t = (Fp.one F).neg)
    (habove : Fp.le (snormAt g F (t + 1)) (Fp.one F).neg = false)
    (htlo : -halfRange g ≤ t) (hthi : t < halfRange g - 1) :
    snorm g F v = (Fp.one F).neg ↔ sgn g v ≤ t := by
  obtain ⟨hlo, hhi⟩ := sgn_range g v
  exact monotone_eq_iff_le (snormAt_canonical g F) (snormAt_mono g F) (minusOne_isReal F)
    (minusOne_canonical F) (by norm_num) hmin ht habove htlo hthi hlo hhi

/-- A real value of `snorm` below -1.0 is one of which -1.0 is no lower bound. -/
theorem snorm_lt_minusOne_iff : (∃ x : ℝ, (snorm g F v).isReal x ∧ x < -1) ↔
    Fp.le (Fp.one F).neg (snorm g F v) = false := by
  obtain ⟨x, hx, -⟩ := genQuotient_isReal g F (abs_shl1_le g v)
  rw [← snorm_eq_genQuotient] at hx
  rw [← Bool.not_eq_true, Fp.le_iff (minusOne_isReal F) hx, not_le]
  exact ⟨fun ⟨y, hy, hlt⟩ => hx.unique hy ▸ hlt, fun hlt => ⟨x, hx, hlt⟩⟩

theorem minusOne_le_snorm {t : Int} (ht : Fp.le (Fp.one F).neg (snormAt g F t) = true)
    (htlo : -halfRange g ≤ t) (htv : t ≤ sgn g v) :
    Fp.le (Fp.one F).neg (snorm g F v) = true := by
  obtain ⟨-, hhi⟩ := sgn_range g v
  have hmono := snormAt_mono g F t (sgn g v) htlo htv hhi
  obtain ⟨x, hx, -⟩ := genQuotient_isReal g F (abs_shl1_le g v)
  obtain ⟨y, hy, -⟩ := genQuotient_isReal g F (abs_double_le htlo (htv.trans hhi))
  have hone := minusOne_isReal F
  exact (Fp.le_iff hone hx).2
    (((Fp.le_iff hone hy).1 ht).trans ((Fp.le_iff hy hx).1 hmono))

end

/-- Where the quotient is -1.0 at the least reading, it is never below. -/
theorem not_snorm_lt_minusOne {g : Gen} {F : Fmt} (v : Word64)
    (hmin : snormAt g F (-halfRange g) = (Fp.one F).neg) :
    ¬ ∃ x : ℝ, (snorm g F v).isReal x ∧ x < -1 := by
  obtain ⟨hlo, -⟩ := sgn_range g v
  rw [snorm_lt_minusOne_iff, Bool.not_eq_false]
  refine minusOne_le_snorm v ?_ le_rfl hlo
  rw [hmin]
  exact Fp.le_refl (minusOne_isReal F)

/-- With `G32` and binary64 the quotient is not rounded to either end point: it is below -1.0 at the
least reading and above at the next (42_fp_conversion_and_reals.md R146). -/
theorem snorm_g32_b64 (v : Word64) :
    snorm .g32 .b64 v ≠ .one .b64 ∧ snorm .g32 .b64 v ≠ (Fp.one .b64).neg ∧
      ((∃ x : ℝ, (snorm .g32 .b64 v).isReal x ∧ x < -1) ↔ sgn .g32 v = -halfRange .g32) := by
  obtain ⟨hlo, hhi⟩ := sgn_range .g32 v
  have hmono := snormAt_mono .g32 .b64
  have hleast : Fp.le (Fp.one .b64).neg (snormAt .g32 .b64 (-halfRange .g32)) = false := by
    decide +kernel
  have hnext : Fp.le (Fp.one .b64).neg (snormAt .g32 .b64 (-halfRange .g32 + 1)) = true ∧
      Fp.le (snormAt .g32 .b64 (-halfRange .g32 + 1)) (Fp.one .b64).neg = false := by
    decide +kernel
  refine ⟨?_, ?_, ?_⟩
  · exact monotone_ne_of_le hmono hhi hlo le_rfl (by decide +kernel)
  · rcases hlo.eq_or_lt with heq | hlt
    · exact monotone_ne_of_le hmono heq.ge hlo (by decide) hleast
    · exact monotone_ne_of_ge hmono (by omega) (by omega) hhi hnext.2
  · rw [snorm_lt_minusOne_iff]
    constructor
    · intro h
      by_contra hne
      simp [minusOne_le_snorm v hnext.1 (by omega) (by omega)] at h
    · intro h
      rw [snorm_eq_snormAt, h]
      exact hleast

/-- The closed facts about a configuration that reaches both end points: `snorm` is 1.0 at the
greatest reading and down to `t`, and -1.0 at the least reading and up to `-t`. -/
def ReachesEndPoints (g : Gen) (F : Fmt) (t : Int) : Prop :=
  snormAt g F (halfRange g - 1) = .one F ∧ snormAt g F t = .one F ∧
    Fp.le (.one F) (snormAt g F (t - 1)) = false ∧
    snormAt g F (-halfRange g) = (Fp.one F).neg ∧ snormAt g F (-t) = (Fp.one F).neg ∧
    Fp.le (snormAt g F (-t + 1)) (Fp.one F).neg = false

theorem ReachesEndPoints.snorm {g : Gen} {F : Fmt} {t : Int} (h : ReachesEndPoints g F t)
    (htlo : 0 < t) (hthi : t < halfRange g) (v : Word64) :
    (snorm g F v = .one F ↔ t ≤ sgn g v) ∧ (snorm g F v = (Fp.one F).neg ↔ sgn g v ≤ -t) ∧
      ¬ ∃ x : ℝ, (snorm g F v).isReal x ∧ x < -1 := by
  obtain ⟨hmax, ht, hbelow, hmin, hnt, habove⟩ := h
  exact ⟨snorm_eq_one_iff v hmax ht hbelow (by omega) (by omega),
    snorm_eq_minusOne_iff v hmin hnt habove (by omega) (by omega), not_snorm_lt_minusOne v hmin⟩

theorem reachesEndPoints_g32_b32 : ReachesEndPoints .g32 .b32 0x7FFFFFC0 := by
  unfold ReachesEndPoints
  decide +kernel

theorem reachesEndPoints_g64_b32 : ReachesEndPoints .g64 .b32 0x7FFFFFC000000000 := by
  unfold ReachesEndPoints
  decide +kernel

theorem reachesEndPoints_g64_b64 : ReachesEndPoints .g64 .b64 0x7FFFFFFFFFFFFE00 := by
  unfold ReachesEndPoints
  decide +kernel

theorem snorm_zero (g : Gen) (F : Fmt) : snorm g F 0 = .fin false 0 F.minQuantum := by
  have hsgn : sgn g 0 = 0 := by cases g <;> decide
  rw [snorm_eq_snormAt, hsgn]
  exact genQuotient_zero g F

/-- Settles O48: three configurations reach the end points and the fourth does not; the signed
readings of each range are then its outputs. -/
theorem snormEndPoints : Obligations.SnormEndPoints := by
  intro g F v hv
  have hsgn := sgn_eq hv
  have hzero := snorm_zero g F
  have h32 : (genMax .g32).toNat = 2 ^ 32 - 1 := rfl
  cases g <;> cases F <;> rw [halfRange] at hsgn
  case g32.b32 =>
    obtain ⟨hone, hminus, hlt⟩ := reachesEndPoints_g32_b32.snorm (by decide) (by decide) v
    exact ⟨hone.trans (by omega), hminus.trans (by omega), iff_of_false hlt (by simp), hzero⟩
  case g32.b64 =>
    obtain ⟨hone, hminus, hlt⟩ := snorm_g32_b64 v
    refine ⟨iff_of_false hone id, iff_of_false hminus id, hlt.trans ?_, hzero⟩
    rw [halfRange]
    simp only [true_and]
    omega
  case g64.b32 =>
    obtain ⟨hone, hminus, hlt⟩ := reachesEndPoints_g64_b32.snorm (by decide) (by decide) v
    exact ⟨hone.trans (by omega), hminus.trans (by omega), iff_of_false hlt (by simp), hzero⟩
  case g64.b64 =>
    obtain ⟨hone, hminus, hlt⟩ := reachesEndPoints_g64_b64.snorm (by decide) (by decide) v
    exact ⟨hone.trans (by omega), hminus.trans (by omega), iff_of_false hlt (by simp), hzero⟩

end Sys2Proof.Machine

/-! # The accepted point, and a NaN radius (43_disk_gaussian_sampler.md R161 to R164, R173)

Rounding never passes a value of the format. So the magnitude of a coordinate outside `[-1, 1]`,
itself such a value, is at most its rounded square and at most the rounded sum of squares; and the
least coordinate that is not 0 has a square that is still normal. -/

namespace Sys2Proof.Machine

/-! ### The acceptance test -/

theorem Candidate.accepted_iff {F : Fmt} {c : Candidate} (hc : c.s ≠ .inf true) :
    c.accepted F = true ↔ ∃ r : ℝ, c.s.isReal r ∧ r ≤ 1 := by
  have hone := one_isReal F
  obtain ⟨no, mo, eo, ho, -⟩ := id hone
  unfold Candidate.accepted
  match hs : c.s with
  | .nan => simp [Fp.le, Fp.not_isReal_nan]
  | .inf true => exact absurd hs hc
  | .inf false => simp [ho, Fp.le, Fp.not_isReal_inf]
  | .fin neg m e =>
    have hr := Fp.isReal_fin neg m e
    rw [Fp.le_iff hr hone]
    exact ⟨fun h => ⟨_, hr, h⟩, fun ⟨r, hr', h⟩ => hr.unique hr' ▸ h⟩

/-! ### Signs -/

/-- The value has the sign plus, and is no NaN. -/
def Fp.plus : Fp → Prop
  | .nan => False
  | .inf neg | .fin neg _ _ => neg = false

theorem ofQuanta_plus (F : Fmt) (m : Nat) (t : Int) : (ofQuanta F false m t).plus := by
  unfold ofQuanta inRange
  split <;> split <;> rfl

theorem roundFrac_plus (F : Fmt) (n d : Nat) (k : Int) : (roundFrac F false n d k).plus := by
  unfold roundFrac
  split
  · rfl
  · exact ofQuanta_plus F _ _

theorem Fp.mul_self_plus {F : Fmt} {a : Fp} {x : ℝ} (ha : a.isReal x) : (Fp.mul F a a).plus := by
  obtain ⟨neg, m, e, rfl, -⟩ := ha
  simp only [Fp.mul, Bool.xor_self]
  exact roundFrac_plus F _ _ _

theorem Fp.add_plus {F : Fmt} {a b : Fp} (ha : a.plus) (hb : b.plus) : (Fp.add F a b).plus := by
  match a, b with
  | .nan, _ => exact ha
  | _, .nan => exact hb.elim
  | .inf na, .inf nb =>
    obtain rfl : na = false := ha
    obtain rfl : nb = false := hb
    exact rfl
  | .inf na, .fin nb mb eb => exact ha
  | .fin na ma ea, .inf nb => exact hb
  | .fin na ma ea, .fin nb mb eb =>
    obtain rfl : na = false := ha
    obtain rfl : nb = false := hb
    have hnonneg (a b : Nat) : ¬ signed false a + signed false b < 0 := by simp [signed]; omega
    simp only [Fp.add, Bool.and_self, decide_eq_false (hnonneg _ _), ite_self]
    exact roundFrac_plus F _ _ _

/-- A finite sum has finite summands. -/
theorem Fp.add_isReal {F : Fmt} {a b : Fp} {r : ℝ} (h : (Fp.add F a b).isReal r) :
    ∃ x y : ℝ, a.isReal x ∧ b.isReal y := by
  match a, b with
  | .nan, _ => exact absurd h (Fp.not_isReal_nan r)
  | .inf na, .nan | .fin na ma ea, .nan => exact absurd h (Fp.not_isReal_nan r)
  | .inf na, .inf nb =>
    simp only [Fp.add] at h
    split at h
    · exact absurd h (Fp.not_isReal_inf na r)
    · exact absurd h (Fp.not_isReal_nan r)
  | .inf na, .fin nb mb eb => exact absurd h (Fp.not_isReal_inf na r)
  | .fin na ma ea, .inf nb => exact absurd h (Fp.not_isReal_inf nb r)
  | .fin na ma ea, .fin nb mb eb => exact ⟨_, _, Fp.isReal_fin na ma ea, Fp.isReal_fin nb mb eb⟩

/-! ### Coordinates -/

theorem emin_le (F : Fmt) : F.emin ≤ -126 := by cases F <;> decide

theorem minQuantum_le_emin (F : Fmt) : F.minQuantum ≤ F.emin := by cases F <;> decide

theorem representable_two (F : Fmt) : Representable F 2 :=
  ⟨_, Fp.canonical_cvt F 2, cvt_two_isReal F⟩

/-- A reading that is not 0 gives a quotient of at least `2 / 2^64`. -/
theorem snormAt_lower {g : Gen} {F : Fmt} {i : Int} {x : ℝ} (hlo : -halfRange g ≤ i)
    (hhi : i ≤ halfRange g - 1) (hx : (snormAt g F i).isReal x) (hi : i ≠ 0) :
    (2 : ℝ) ^ (-63 : Int) ≤ |x| := by
  obtain ⟨M, hM1, h1, h64⟩ := fmax_isReal g F
  obtain ⟨c, hc, -⟩ := cvt_isReal F (abs_double_le hlo hhi)
  have hr := genQuotient_rounds hc hM1 h1
  have hrep : Representable F ((2 : ℝ) ^ (-63 : Int)) := by
    have := minQuantum_le F
    have := le_emax F
    exact representable_two_zpow F (by omega) (by omega)
  have hM : 0 < M := by linarith
  have hsmall : (2 : ℝ) ^ (-63 : Int) ≤ 2 / M := by
    rw [le_div_iff₀ hM]
    calc (2 : ℝ) ^ (-63 : Int) * M ≤ (2 : ℝ) ^ (-63 : Int) * 2 ^ (64 : Nat) := by gcongr
      _ = 2 := by norm_num
  rcases lt_or_gt_of_ne hi with hneg | hpos
  · have hc2 : c ≤ -2 := (Fp.cvt_rounds F _).ge_of_ge hc (representable_two F).neg
      (by exact_mod_cast (by omega : 2 * i ≤ -2))
    have hquot : c / M ≤ -(2 : ℝ) ^ (-63 : Int) := by
      have := div_le_div_of_nonneg_right hc2 hM.le
      rw [neg_div] at this
      linarith
    have := hr.ge_of_ge hx hrep.neg hquot
    exact le_abs.2 (.inr (by linarith))
  · have hc2 : 2 ≤ c := (Fp.cvt_rounds F _).le_of_le hc (representable_two F)
      (by exact_mod_cast (by omega : 2 ≤ 2 * i))
    have hquot : (2 : ℝ) ^ (-63 : Int) ≤ c / M :=
      hsmall.trans (div_le_div_of_nonneg_right hc2 hM.le)
    exact le_abs.2 (.inl (hr.le_of_le hx hrep hquot))

theorem sgn_eq_zero_iff {g : Gen} {v : Word64} (hv : v.toNat ≤ (genMax g).toNat) :
    sgn g v = 0 ↔ v = 0 := by
  have hzero : v = 0 ↔ v.toNat = 0 := ⟨fun h => by rw [h]; rfl, fun h => BitVec.eq_of_toNat_eq h⟩
  rw [hzero, sgn_eq hv]
  cases g with
  | g32 =>
    have hmax : (genMax .g32).toNat = 2 ^ 32 - 1 := rfl
    rw [halfRange]
    omega
  | g64 =>
    have hmax : (genMax .g64).toNat = 2 ^ 64 - 1 := rfl
    rw [halfRange]
    omega

/-- A coordinate is a real number; it is 0 exactly for the output 0, and otherwise its square does
not underflow. -/
theorem snorm_isReal (g : Gen) (F : Fmt) {v : Word64} (hv : v.toNat ≤ (genMax g).toNat) :
    ∃ x : ℝ, (snorm g F v).isReal x ∧ (x = 0 ↔ v = 0) ∧ (x ≠ 0 → (2 : ℝ) ^ F.emin ≤ x * x) := by
  obtain ⟨hlo, hhi⟩ := sgn_range g v
  obtain ⟨x, hx, -⟩ := genQuotient_isReal g F (abs_shl1_le g v)
  have hsmall : (0 : ℝ) < (2 : ℝ) ^ (-63 : Int) := by positivity
  have hiff : x = 0 ↔ v = 0 := by
    rw [← sgn_eq_zero_iff hv]
    constructor
    · rintro rfl
      by_contra hne
      have := snormAt_lower hlo hhi hx hne
      rw [abs_zero] at this
      linarith
    · intro h
      rw [h, mul_zero, genQuotient_zero] at hx
      exact hx.unique (Fp.zero_isReal F false)
  refine ⟨x, hx, hiff, fun hne => ?_⟩
  have hlow := snormAt_lower hlo hhi hx ((hiff.trans (sgn_eq_zero_iff hv).symm).not.1 hne)
  calc (2 : ℝ) ^ F.emin ≤ (2 : ℝ) ^ (-63 + -63 : Int) :=
        zpow_le_zpow_right₀ one_le_two (emin_le F)
    _ = (2 : ℝ) ^ (-63 : Int) * (2 : ℝ) ^ (-63 : Int) := zpow_add₀ two_ne_zero _ _
    _ ≤ |x| * |x| := mul_le_mul hlow hlow hsmall.le (abs_nonneg x)
    _ = x * x := abs_mul_abs_self x

/-! ### The squared radius -/

section
variable {F : Fmt} {a : Fp} {x p : ℝ} (hc : a.canonical F) (ha : a.isReal x)
  (hp : (Fp.mul F a a).isReal p)
include ha hp

theorem roundedSq_nonneg : 0 ≤ p :=
  (Fp.mul_rounds ha ha).le_of_le hp (representable_zero F) (mul_self_nonneg x)

theorem roundedSq_eq_zero (hx : x = 0) : p = 0 := by
  obtain ⟨neg, hzero⟩ := (Fp.mul_rounds (F := F) ha ha).zero (by rw [hx, zero_mul])
  exact hp.unique (hzero ▸ Fp.zero_isReal F neg)

theorem emin_le_roundedSq (hlow : x ≠ 0 → (2 : ℝ) ^ F.emin ≤ x * x) (hx : x ≠ 0) :
    (2 : ℝ) ^ F.emin ≤ p := by
  have := le_emax F
  have := emin_le F
  exact (Fp.mul_rounds ha ha).le_of_le hp
    (representable_two_zpow F (minQuantum_le_emin F) (by omega)) (hlow hx)

include hc

/-- Outside `[-1, 1]` a coordinate is at most its rounded square. -/
theorem abs_le_one_of_roundedSq (hp1 : p ≤ 1) : |x| ≤ 1 := by
  by_contra! hgt
  have hsq : |x| ≤ x * x := by
    rw [← abs_mul_abs_self]
    exact le_mul_of_one_le_left (abs_nonneg x) hgt.le
  have := (Fp.mul_rounds ha ha).le_of_le hp (Representable.abs ⟨a, hc, ha⟩) hsq
  linarith

end

section
variable {F : Fmt} {a b : Fp} {p q r : ℝ} (ha : a.isReal p) (hb : b.isReal q)
  (hr : (Fp.add F a b).isReal r)
include ha hb hr

theorem left_le_roundedSum (hac : a.canonical F) (hq : 0 ≤ q) : p ≤ r :=
  (Fp.add_rounds ha hb).le_of_le hr ⟨a, hac, ha⟩ (by linarith)

theorem right_le_roundedSum (hbc : b.canonical F) (hp : 0 ≤ p) : q ≤ r :=
  (Fp.add_rounds ha hb).le_of_le hr ⟨b, hbc, hb⟩ (by linarith)

theorem roundedSum_eq_zero (hp : p = 0) (hq : q = 0) : r = 0 := by
  obtain ⟨neg, hzero⟩ := (Fp.add_rounds (F := F) ha hb).zero (by rw [hp, hq, zero_add])
  exact hr.unique (hzero ▸ Fp.zero_isReal F neg)

end

/-- The point with the coordinates of two outputs (43_disk_gaussian_sampler.md R161). -/
theorem State.candidate_eq (g : Gen) (F : Fmt) (s : State) : s.candidate g F =
    candidateOf F (snorm g F (s.stepOut g)) (snorm g F ((s.advance g).stepOut g)) := by
  rw [State.candidate, State.genOut_eq_stepOut, State.genOut_eq_stepOut]

/-- What the spec infers of an accepted point (43_disk_gaussian_sampler.md R162). -/
theorem candidateOf_accepted {g : Gen} {F : Fmt} {v w : Word64} (hv : v.toNat ≤ (genMax g).toNat)
    (hw : w.toNat ≤ (genMax g).toNat) :
    let c := candidateOf F (snorm g F v) (snorm g F w)
    c.s ≠ .inf true ∧ (c.accepted F = true →
      ∃ x y r : ℝ, c.x.isReal x ∧ c.y.isReal y ∧ c.s.isReal r ∧ |x| ≤ 1 ∧ |y| ≤ 1 ∧ 0 ≤ r ∧ r ≤ 1 ∧
        (∃ m e, c.s = .fin false m e) ∧ (r ≠ 0 → (2 : ℝ) ^ F.emin ≤ r) ∧ (r = 0 ↔ x = 0 ∧ y = 0) ∧
        (r = 0 ↔ v = 0 ∧ w = 0)) := by
  intro c
  obtain ⟨x, hx, hxv, hxlow⟩ := snorm_isReal g F hv
  obtain ⟨y, hy, hyw, hylow⟩ := snorm_isReal g F hw
  have hplus : c.s.plus := Fp.add_plus (Fp.mul_self_plus hx) (Fp.mul_self_plus hy)
  have hinf : c.s ≠ .inf true := by
    intro h
    rw [h] at hplus
    exact absurd hplus (by simp [Fp.plus])
  refine ⟨hinf, fun hacc => ?_⟩
  obtain ⟨r, hr, hr1⟩ := (Candidate.accepted_iff hinf).1 hacc
  obtain ⟨p, q, hp, hq⟩ := Fp.add_isReal hr
  have hp0 := roundedSq_nonneg hx hp
  have hq0 := roundedSq_nonneg hy hq
  have hpr := left_le_roundedSum hp hq hr (Fp.canonical_mul F _ _) hq0
  have hqr := right_le_roundedSum hp hq hr (Fp.canonical_mul F _ _) hp0
  have hpow : (0 : ℝ) < (2 : ℝ) ^ F.emin := by positivity
  have hfin : ∃ m e, c.s = .fin false m e := by
    obtain ⟨neg, m, e, h, -⟩ := id hr
    rw [h] at hplus
    obtain rfl : neg = false := hplus
    exact ⟨m, e, h⟩
  have hlow (hne : ¬ (x = 0 ∧ y = 0)) : (2 : ℝ) ^ F.emin ≤ r := by
    by_cases hx0 : x = 0
    · exact (emin_le_roundedSq hy hq hylow fun hy0 => hne ⟨hx0, hy0⟩).trans hqr
    · exact (emin_le_roundedSq hx hp hxlow hx0).trans hpr
  have hzero : r = 0 ↔ x = 0 ∧ y = 0 := by
    constructor
    · intro h
      by_contra hne
      linarith [hlow hne]
    · rintro ⟨hx0, hy0⟩
      exact roundedSum_eq_zero hp hq hr (roundedSq_eq_zero hx hp hx0) (roundedSq_eq_zero hy hq hy0)
  exact ⟨x, y, r, hx, hy, hr,
    abs_le_one_of_roundedSq (snorm_canonical g F v) hx hp (hpr.trans hr1),
    abs_le_one_of_roundedSq (snorm_canonical g F w) hy hq (hqr.trans hr1), hp0.trans hpr, hr1, hfin,
    fun h => hlow (hzero.not.1 h), hzero, by rw [hzero, hxv, hyw]⟩

/-- Settles O55: the comparisons by their real numbers, the accepted point by
`candidateOf_accepted`. -/
theorem acceptedPointInDisk : Obligations.AcceptedPointInDisk := by
  refine ⟨fun a b x y => Fp.le_iff, fun a => ⟨Fp.le_nan_left a, Fp.le_nan_right a, Fp.eq0_iff⟩,
    fun F c => Candidate.accepted_iff, fun g F s => ?_⟩
  rw [State.candidate_eq]
  exact candidateOf_accepted (s.stepOut_le_genMax g) ((s.advance g).stepOut_le_genMax g)

/-! ### A NaN radius -/

theorem withDisk_of_acceptsAfter {g : Gen} {F : Fmt} (finish : Candidate → State → State)
    {s : State} {k : Nat} (hk : k < Config.diskBurst) (h : s.acceptsAfter g F k) :
    withDisk g F finish s =
      .next (finish ((s.afterIterations g k).candidate g F) (s.afterIterations g (k + 1))) := by
  rw [withDisk, diskLoop_of_acceptsAfter hk h]

theorem finishScaled_phase (F : Fmt) (factor : Fmt → Fp → Fp) (c : Candidate) (s : State)
    (p : Phase) : finishScaled F factor c { s with phase := p } = finishScaled F factor c s := by
  unfold finishScaled
  split <;> rfl

theorem Fp.mul_nan_right (F : Fmt) (a : Fp) : Fp.mul F a .nan = .nan := by cases a <;> rfl

/-- Each NaN takes a draw of its own (43_disk_gaussian_sampler.md R173, log 4). -/
theorem finishScaled_of_nan {F : Fmt} {c : Candidate} {s : State} (factor : Fmt → Fp → Fp)
    (hc : c.s.eq0 = false) (hs : s.radius F = .nan) :
    finishScaled F factor c s = { s with
      phase := .responding ⟨.ok, nanEncoding F (Config.nanDraw s.draws),
        nanEncoding F (Config.nanDraw (s.draws + 1)), 0⟩
      draws := s.draws + 2 } := by
  simp only [finishScaled, hc, hs, Fp.mul_nan_right]
  rfl

/-- The two scaled transforms end alike, with different factors. -/
theorem exists_finishScaled {g : Gen} {F : Fmt} {i : Instr}
    (hi : i ∈ [Instr.gaussr g F, .expor g F]) :
    ∃ factor, ∀ s, exec i s = withDisk g F (finishScaled F factor) s := by
  simp only [List.mem_cons, List.not_mem_nil, or_false] at hi
  rcases hi with rfl | rfl
  · exact ⟨gaussFactor, fun _ => rfl⟩
  · exact ⟨expoFactor, fun _ => rfl⟩

/-- Settles O58, by `finishScaled_of_nan`: the operand and the count of draws are those of the
start. -/
theorem nanRadiusGivesNans : Obligations.NanRadiusGivesNans := by
  intro g F s k i hacc hc hnan hi
  obtain ⟨factor, hexec⟩ := exists_finishScaled hi
  obtain ⟨-, -, harg, -, -, -, -, -, hdraws⟩ := s.afterIterations_frame g (k + 1)
  have hradius : (s.afterIterations g (k + 1)).radius F = .nan := by
    rw [State.radius, harg, hnan]
  have hend := finishScaled_of_nan factor hc hradius
  rw [hdraws] at hend
  refine ⟨_, _, fun hk => ?_, ?_, rfl, rfl, unpack_nanEncoding F _, unpack_nanEncoding F _⟩
  · rw [hexec, withDisk_of_acceptsAfter _ hk hacc, hend]
  · rw [repeatExec_of_acceptsAfter hexec (finishScaled_phase F factor) hacc, hend]

end Sys2Proof.Machine

/-! # The bounds of the logarithm (42_fp_conversion_and_reals.md R138; log 5)

A finite sum of rounded terms of the artanh series lies below the logarithm by less than one unit a
term and one for the terms left out; and it is monotone, because each rounded term is. -/

namespace Sys2Proof.Machine

/-! ### Sums of the series -/

/-- The series `artanhSum` cuts off and rounds. -/
noncomputable def artanhSeries (t : ℝ) (n : Nat) : ℝ :=
  ∑ i ∈ Finset.range n, t ^ (2 * i + 1) / (2 * i + 1)

theorem artanhSeries_succ (t : ℝ) (n : Nat) :
    artanhSeries t (n + 1) = artanhSeries t n + t ^ (2 * n + 1) / (2 * n + 1) :=
  Finset.sum_range_succ _ n

theorem artanhSum_term {u v : Nat} (n : Nat) :
    2 ^ lnScale * ((u : ℝ) / v) ^ (2 * n + 1) / (2 * n + 1) =
      ((2 ^ lnScale * u ^ (2 * n + 1) : Nat) : ℝ) /
        ((v ^ (2 * n + 1) * (2 * n + 1) : Nat) : ℝ) := by
  push_cast
  rw [div_pow, mul_div_assoc', div_div]

/-- Each term loses less than one unit. -/
theorem artanhSum_bounds {u v : Nat} (hv : 0 < v) (n : Nat) :
    (artanhSum u v n : ℝ) ≤ 2 ^ lnScale * artanhSeries ((u : ℝ) / v) n ∧
      2 ^ lnScale * artanhSeries ((u : ℝ) / v) n ≤ artanhSum u v n + n := by
  induction n with
  | zero => simp [artanhSum, artanhSeries]
  | succ n ih =>
    obtain ⟨hlo, hhi⟩ := ih
    have hden : 0 < v ^ (2 * n + 1) * (2 * n + 1) := by positivity
    have hterm := artanhSum_term (u := u) (v := v) n
    have hdown := Nat.cast_div_le (α := ℝ) (m := 2 ^ lnScale * u ^ (2 * n + 1))
      (n := v ^ (2 * n + 1) * (2 * n + 1))
    have hup := Nat.lt_succ_floor
      (((2 ^ lnScale * u ^ (2 * n + 1) : Nat) : ℝ) / ((v ^ (2 * n + 1) * (2 * n + 1) : Nat) : ℝ))
    rw [Nat.floor_div_eq_div, Nat.succ_eq_add_one, Nat.cast_succ] at hup
    rw [artanhSeries_succ, mul_add, mul_div_assoc', hterm, artanhSum]
    push_cast at hdown hup ⊢
    constructor <;> linarith

theorem div_le_div_of_cross {a b a' b' : Nat} (hb : 0 < b) (hb' : 0 < b') (h : a * b' ≤ a' * b) :
    a / b ≤ a' / b' := by
  rw [Nat.le_div_iff_mul_le hb']
  have := Nat.mul_le_mul_right b' (Nat.div_mul_le_self a b)
  refine Nat.le_of_mul_le_mul_right (c := b) ?_ hb
  calc a / b * b' * b = a / b * b * b' := by ring
    _ ≤ a' * b := this.trans h

/-- The sum is monotone in the fraction. -/
theorem artanhSum_mono {u v u' v' : Nat} (hv : 0 < v) (hv' : 0 < v') (h : u * v' ≤ u' * v)
    (n : Nat) : artanhSum u v n ≤ artanhSum u' v' n := by
  induction n with
  | zero => exact le_rfl
  | succ n ih =>
    refine Nat.add_le_add ih (div_le_div_of_cross (by positivity) (by positivity) ?_)
    have := Nat.mul_le_mul_left (2 ^ lnScale * (2 * n + 1)) (Nat.pow_le_pow_left h (2 * n + 1))
    rw [mul_pow, mul_pow] at this
    calc 2 ^ lnScale * u ^ (2 * n + 1) * (v' ^ (2 * n + 1) * (2 * n + 1))
        = 2 ^ lnScale * (2 * n + 1) * (u ^ (2 * n + 1) * v' ^ (2 * n + 1)) := by ring
      _ ≤ 2 ^ lnScale * (2 * n + 1) * (u' ^ (2 * n + 1) * v ^ (2 * n + 1)) := this
      _ = _ := by ring

/-! ### The logarithm of a ratio -/

section
variable {c d : Nat} (hd : 0 < d) (hdc : d ≤ c)
include hd hdc

theorem artanh_argument :
    (1 + ((c - d : Nat) : ℝ) / ((c + d : Nat) : ℝ)) /
      (1 - ((c - d : Nat) : ℝ) / ((c + d : Nat) : ℝ)) = (c : ℝ) / d := by
  have hd' : (0 : ℝ) < d := by exact_mod_cast hd
  have hsum : (c : ℝ) + d ≠ 0 := by positivity
  have hplus : 1 + ((c : ℝ) - d) / (c + d) = 2 * c / (c + d) := by
    field_simp
    ring
  have hminus : 1 - ((c : ℝ) - d) / (c + d) = 2 * d / (c + d) := by
    field_simp
    ring
  rw [Nat.cast_sub hdc, Nat.cast_add, hplus, hminus, div_div_div_cancel_right₀ hsum,
    mul_div_mul_left _ _ two_ne_zero]

/-- The bounds on `ln (c / d)` for `d ≤ c ≤ 2 d`: a unit for each of `lnTerms` terms and one for
those left out, doubled. -/
theorem lnRatio_bounds (hcd : c ≤ 2 * d) :
    (lnRatioLow c d : ℝ) ≤ 2 ^ lnScale * Real.log ((c : ℝ) / d) ∧
      2 ^ lnScale * Real.log ((c : ℝ) / d) ≤ lnRatioHigh c d := by
  set t : ℝ := ((c - d : Nat) : ℝ) / ((c + d : Nat) : ℝ) with ht
  have hsum : (0 : ℝ) < ((c + d : Nat) : ℝ) := by exact_mod_cast Nat.add_pos_right c hd
  have ht0 : 0 ≤ t := by positivity
  have ht3 : t ≤ 1 / 3 := by
    rw [ht, div_le_div_iff₀ hsum (by norm_num)]
    exact_mod_cast (by omega : (c - d) * 3 ≤ 1 * (c + d))
  have hlow := Real.sum_range_le_log_div ht0 (by linarith) lnTerms
  have hhigh := Real.log_div_le_sum_range_add ht0 (by linarith) lnTerms
  rw [artanh_argument hd hdc] at hlow hhigh
  change artanhSeries t lnTerms ≤ _ at hlow
  change _ ≤ artanhSeries t lnTerms + _ at hhigh
  obtain ⟨hsumlo, hsumhi⟩ := artanhSum_bounds (u := c - d) (Nat.add_pos_right c hd) lnTerms
  rw [← ht] at hsumlo hsumhi
  have hscale : (0 : ℝ) < 2 ^ lnScale := by positivity
  have hrest : 2 ^ lnScale * (t ^ (2 * lnTerms + 1) / (1 - t ^ 2)) ≤ 1 := by
    have hnum : t ^ (2 * lnTerms + 1) ≤ (1 / 3) ^ (2 * lnTerms + 1) := by gcongr
    have hden : 8 / 9 ≤ 1 - t ^ 2 := by nlinarith
    calc 2 ^ lnScale * (t ^ (2 * lnTerms + 1) / (1 - t ^ 2))
        ≤ 2 ^ lnScale * ((1 / 3) ^ (2 * lnTerms + 1) / (8 / 9)) := by gcongr
      _ ≤ 1 := by norm_num [lnScale, lnTerms]
  have hlow' := mul_le_mul_of_nonneg_left hlow hscale.le
  have hhigh' := mul_le_mul_of_nonneg_left hhigh hscale.le
  rw [mul_add] at hhigh'
  unfold lnRatioHigh lnRatioLow
  push_cast
  constructor <;> linarith

end

theorem lnRatioLow_mono {c d c' d' : Nat} (hd : 0 < d) (hd' : 0 < d') (hdc : d ≤ c) (hdc' : d' ≤ c')
    (h : c * d' ≤ c' * d) : lnRatioLow c d ≤ lnRatioLow c' d' := by
  refine Nat.mul_le_mul_left 2 (artanhSum_mono (by omega) (by omega) ?_ lnTerms)
  zify [hdc, hdc'] at h ⊢
  nlinarith

/-! ### The logarithm of a value -/

/-- The share of the binary exponent in `lnLow`. -/
def lnScaled (k : Int) : Int := k * (if 0 ≤ k then lnRatioLow 2 1 else lnRatioHigh 2 1 : Nat)

theorem lnLow_eq (m : Nat) (e : Int) :
    lnLow m e = lnScaled (lnExponent m e) + lnRatioLow m (2 ^ Nat.log2 m) := rfl

theorem lnScaled_bounds (k : Int) :
    (lnScaled k : ℝ) ≤ 2 ^ lnScale * (k * Real.log 2) ∧
      2 ^ lnScale * (k * Real.log 2) ≤ lnScaled k + |(k : ℝ)| * (2 * (lnTerms + 1)) := by
  have hbounds := lnRatio_bounds (c := 2) (d := 1) one_pos one_le_two le_rfl
  rw [Nat.cast_one, div_one, Nat.cast_two] at hbounds
  obtain ⟨hlo, hhi⟩ := hbounds
  have hgap : (lnRatioHigh 2 1 : ℝ) = lnRatioLow 2 1 + 2 * (lnTerms + 1) := by
    unfold lnRatioHigh
    push_cast
    ring
  unfold lnScaled
  split
  · next hk =>
    have hk' : (0 : ℝ) ≤ k := by exact_mod_cast hk
    rw [abs_of_nonneg hk']
    push_cast
    constructor <;> nlinarith
  · next hk =>
    have hk' : (k : ℝ) ≤ 0 := by exact_mod_cast (not_le.1 hk).le
    rw [abs_of_nonpos hk']
    push_cast
    constructor <;> nlinarith

/-- The significand lies in `[2^L, 2^(L + 1))`. -/
theorem log2_range {m : Nat} (hm : m ≠ 0) :
    2 ^ Nat.log2 m ≤ m ∧ m < 2 * 2 ^ Nat.log2 m := by
  refine ⟨Nat.log2_self_le hm, ?_⟩
  rw [← pow_succ']
  exact Nat.lt_log2_self

theorem log_value {m : Nat} (e : Int) (hm : m ≠ 0) :
    Real.log ((m : ℝ) * (2 : ℝ) ^ e) =
      lnExponent m e * Real.log 2 + Real.log ((m : ℝ) / ((2 ^ Nat.log2 m : Nat) : ℝ)) := by
  have hm' : (m : ℝ) ≠ 0 := Nat.cast_ne_zero.2 hm
  have hpow : ((2 ^ Nat.log2 m : Nat) : ℝ) ≠ 0 := by positivity
  rw [Real.log_mul hm' (by positivity), Real.log_zpow, Real.log_div hm' hpow, lnExponent]
  push_cast
  rw [Real.log_pow]
  ring

/-- `lnLow` is a lower bound, with an error for each unit of the exponent. -/
theorem lnLow_bounds {m : Nat} (e : Int) (hm : m ≠ 0) :
    (lnLow m e : ℝ) ≤ 2 ^ lnScale * Real.log ((m : ℝ) * (2 : ℝ) ^ e) ∧
      2 ^ lnScale * Real.log ((m : ℝ) * (2 : ℝ) ^ e) ≤
        lnLow m e + (|(lnExponent m e : ℝ)| + 1) * (2 * (lnTerms + 1)) := by
  obtain ⟨hlo, hhi⟩ := log2_range hm
  obtain ⟨hrlo, hrhi⟩ := lnRatio_bounds (Nat.two_pow_pos _) hlo hhi.le
  obtain ⟨hslo, hshi⟩ := lnScaled_bounds (lnExponent m e)
  rw [log_value e hm, lnLow_eq, mul_add]
  unfold lnRatioHigh at hrhi
  push_cast at hrlo hrhi ⊢
  constructor <;> linarith

/-! ### Monotony -/

theorem lnScaled_step {k k' : Int} (h : k < k') : lnScaled k + lnRatioLow 2 1 ≤ lnScaled k' := by
  have hgap : lnRatioLow 2 1 ≤ lnRatioHigh 2 1 := Nat.le_add_right _ _
  unfold lnScaled
  split <;> split
  · nlinarith
  · omega
  · nlinarith
  · nlinarith

theorem value_range {m : Nat} (e : Int) (hm : m ≠ 0) :
    (2 : ℝ) ^ lnExponent m e ≤ (m : ℝ) * (2 : ℝ) ^ e ∧
      (m : ℝ) * (2 : ℝ) ^ e < (2 : ℝ) ^ (lnExponent m e + 1) := by
  obtain ⟨hlo, hhi⟩ := log2_range hm
  have hlo' : (2 : ℝ) ^ Nat.log2 m ≤ m := by exact_mod_cast hlo
  have hhi' : (m : ℝ) < 2 * 2 ^ Nat.log2 m := by exact_mod_cast hhi
  rw [lnExponent, zpow_add_one₀ two_ne_zero, zpow_add₀ two_ne_zero, zpow_natCast]
  have hpow : (0 : ℝ) < (2 : ℝ) ^ e := by positivity
  constructor <;> nlinarith

/-- `lnLow` is monotone in the value. -/
theorem lnLow_mono {m n : Nat} {d e : Int} (hm : m ≠ 0) (hn : n ≠ 0)
    (h : (m : ℝ) * (2 : ℝ) ^ d ≤ (n : ℝ) * (2 : ℝ) ^ e) : lnLow m d ≤ lnLow n e := by
  obtain ⟨hmlo, hmhi⟩ := log2_range hm
  obtain ⟨hnlo, hnhi⟩ := log2_range hn
  rw [lnLow_eq, lnLow_eq]
  rcases lt_trichotomy (lnExponent m d) (lnExponent n e) with hlt | heq | hgt
  · have hstep := lnScaled_step hlt
    have htop : lnRatioLow m (2 ^ Nat.log2 m) ≤ lnRatioLow 2 1 :=
      lnRatioLow_mono (Nat.two_pow_pos _) one_pos hmlo one_le_two (by omega)
    omega
  · have hratio : lnRatioLow m (2 ^ Nat.log2 m) ≤ lnRatioLow n (2 ^ Nat.log2 n) := by
      refine lnRatioLow_mono (Nat.two_pow_pos _) (Nat.two_pow_pos _) hmlo hnlo ?_
      have hpow : (0 : ℝ) < (2 : ℝ) ^ (d + e) := by positivity
      have hexp : (2 : ℝ) ^ Nat.log2 m * (2 : ℝ) ^ d = (2 : ℝ) ^ Nat.log2 n * (2 : ℝ) ^ e := by
        rw [← zpow_natCast, ← zpow_natCast, ← zpow_add₀ two_ne_zero, ← zpow_add₀ two_ne_zero]
        exact congrArg _ heq
      have hcross : (m : ℝ) * 2 ^ Nat.log2 n ≤ n * 2 ^ Nat.log2 m := by
        refine le_of_mul_le_mul_right ?_ hpow
        calc (m : ℝ) * 2 ^ Nat.log2 n * (2 : ℝ) ^ (d + e)
            = (m : ℝ) * 2 ^ d * (2 ^ Nat.log2 n * (2 : ℝ) ^ e) := by
              rw [zpow_add₀ two_ne_zero]
              ring
          _ ≤ (n : ℝ) * 2 ^ e * (2 ^ Nat.log2 n * (2 : ℝ) ^ e) := by gcongr
          _ = (n : ℝ) * 2 ^ Nat.log2 m * (2 : ℝ) ^ (d + e) := by
              rw [← hexp, zpow_add₀ two_ne_zero]
              ring
      exact_mod_cast hcross
    rw [heq]
    omega
  · obtain ⟨hlo, -⟩ := value_range d hm
    obtain ⟨-, hhi⟩ := value_range e hn
    have := (zpow_lt_zpow_iff_right₀ one_lt_two).1 ((hlo.trans h).trans_lt hhi)
    omega

end Sys2Proof.Machine

/-! # Neighbouring values of a format (42_fp_conversion_and_reals.md R126, R138)

Between two neighbouring multiples of a quantum there is no value of the format, as long as the
lower of them has the bits of a normal value or the quantum is the smallest. -/

namespace Sys2Proof.Machine

/-! ### Gaps -/

section
variable {F : Fmt} {n : Nat} {t : Int} (hlow : F.minQuantum < t → 2 ^ F.fracBits ≤ n) {y : ℝ}
  (hy : Representable F y)
include hlow hy

theorem not_representable_between :
    ¬ ((n : ℝ) * (2 : ℝ) ^ t < |y| ∧ |y| < (n + 1) * (2 : ℝ) ^ t) := by
  have hpow : (0 : ℝ) < (2 : ℝ) ^ t := by positivity
  rintro ⟨hgt, hlt⟩
  rcases hy.multiple_or_lt t with ⟨k, hk⟩ | ⟨ht, hsub⟩
  · rw [hk] at hgt hlt
    have hnk : (n : Int) < k := by exact_mod_cast lt_of_mul_lt_mul_right hgt hpow.le
    have hkn : k < (n : Int) + 1 := by exact_mod_cast lt_of_mul_lt_mul_right hlt hpow.le
    omega
  · have hn : (2 : ℝ) ^ F.fracBits ≤ n := by exact_mod_cast hlow ht
    rw [add_comm, zpow_add₀ two_ne_zero, zpow_natCast] at hsub
    have := mul_le_mul_of_nonneg_right hn hpow.le
    linarith

theorem gap_le (h : |y| < (n + 1) * (2 : ℝ) ^ t) : |y| ≤ (n : ℝ) * (2 : ℝ) ^ t := by
  by_contra! hgt
  exact not_representable_between hlow hy ⟨hgt, h⟩

theorem gap_ge (h : (n : ℝ) * (2 : ℝ) ^ t < |y|) : (n + 1) * (2 : ℝ) ^ t ≤ |y| := by
  by_contra! hlt
  exact not_representable_between hlow hy ⟨h, hlt⟩

end

/-- Quanta of a magnitude below `2^emax` are in range, and so is the next one. -/
theorem ofQuanta_finite {F : Fmt} (neg : Bool) {m : Nat} {t : Int} (hm : m ≤ 2 ^ F.precision)
    (ht : F.minQuantum ≤ t) (hlow : F.minQuantum < t → 2 ^ F.fracBits ≤ m)
    (hexp : t + F.fracBits < F.emax) : (ofQuanta F neg m t).canonical F ∧
      (ofQuanta F neg m t).isReal ((if neg then -1 else 1) * ((m : ℝ) * (2 : ℝ) ^ t)) := by
  have hm' : (m : ℝ) ≤ (2 : ℝ) ^ F.precision := by exact_mod_cast hm
  have hp := precision_cast F
  have hlt : (m : ℝ) * (2 : ℝ) ^ t < (2 : ℝ) ^ (F.emax + 1) := by
    calc (m : ℝ) * (2 : ℝ) ^ t ≤ (2 : ℝ) ^ F.precision * (2 : ℝ) ^ t := by gcongr
      _ = (2 : ℝ) ^ ((F.precision : Int) + t) := by rw [zpow_add₀ two_ne_zero, zpow_natCast]
      _ < _ := zpow_lt_zpow_right₀ one_lt_two (by omega)
  obtain ⟨hc, m', t', hv, hval⟩ := (ofQuanta_spec F neg hm ht hlow).2 hlt
  exact ⟨hc, hv ▸ Fp.isReal_fin_iff.2 (by rw [mul_assoc, hval])⟩

theorem exponent_lt_emax {F : Fmt} {t : Int} {r : ℝ} (ht : F.minQuantum ≤ t)
    (hlow : F.minQuantum < t → (2 : ℝ) ^ (t + F.fracBits) ≤ r) (hr : r < (2 : ℝ) ^ F.emax) :
    t + F.fracBits < F.emax := by
  rcases ht.eq_or_lt with rfl | hlt
  · have := F.emin_lt_emax
    rw [Fmt.minQuantum_eq]
    omega
  · exact (zpow_lt_zpow_iff_right₀ one_lt_two).1 ((hlow hlt).trans_lt hr)

/-! ### The neighbours of a magnitude -/

section
variable {F : Fmt} {n : Nat} {k : Int} (hn : n ≠ 0) (hr : (n : ℝ) * (2 : ℝ) ^ k < (2 : ℝ) ^ F.emax)
include hn

/-- A magnitude lies between its quotient and the next multiple of its quantum; the remainder tells
whether it is the quotient itself. -/
theorem quantize_between :
    let q := quantize F n 1 k
    (q.rem = 0 → (n : ℝ) * (2 : ℝ) ^ k = q.quot * (2 : ℝ) ^ q.exp) ∧
      (q.rem ≠ 0 → q.quot * (2 : ℝ) ^ q.exp < (n : ℝ) * (2 : ℝ) ^ k) ∧
      (n : ℝ) * (2 : ℝ) ^ k < (q.quot + 1) * (2 : ℝ) ^ q.exp := by
  intro q
  obtain ⟨hrem, hval, -⟩ := quantize_spec F k hn one_ne_zero
  rw [Nat.cast_one, div_one] at hval
  have hden : (0 : ℝ) < q.den := by exact_mod_cast (Nat.zero_le _).trans_lt hrem
  have hfrac : (q.rem : ℝ) / q.den < 1 := by rw [div_lt_one hden]; exact_mod_cast hrem
  have hpow : (0 : ℝ) < (2 : ℝ) ^ q.exp := by positivity
  rw [hval]
  refine ⟨fun hzero => ?_, fun hzero => ?_, mul_lt_mul_of_pos_right (by linarith) hpow⟩
  · rw [hzero, Nat.cast_zero, zero_div, add_zero]
  · have hrem0 : (0 : ℝ) < q.rem := by exact_mod_cast Nat.pos_of_ne_zero hzero
    exact mul_lt_mul_of_pos_right (by linarith [div_pos hrem0 hden]) hpow

include hr

theorem quantize_exp_lt : (quantize F n 1 k).exp + F.fracBits < F.emax := by
  obtain ⟨-, -, hmin, -, hlo⟩ := quantize_spec F k hn one_ne_zero
  rw [Nat.cast_one, div_one] at hlo
  exact exponent_lt_emax hmin hlo hr

/-- The neighbour towards zero. -/
theorem nextInward_spec (neg : Bool) : ∃ l, (nextInward F neg n 1 k).canonical F ∧
    (nextInward F neg n 1 k).isReal ((if neg then -1 else 1) * l) ∧ 0 ≤ l ∧
    l ≤ (n : ℝ) * (2 : ℝ) ^ k ∧
    ∀ y, Representable F y → |y| ≤ (n : ℝ) * (2 : ℝ) ^ k → |y| ≤ l := by
  obtain ⟨-, -, hmin, -⟩ := quantize_spec F k hn one_ne_zero
  obtain ⟨hquot, hlow⟩ := quantize_quot_bounds F k hn one_ne_zero
  obtain ⟨hexact, hbelow, habove⟩ := quantize_between (F := F) (k := k) hn
  simp only [nextInward, if_neg hn]
  obtain ⟨hc, hreal⟩ := ofQuanta_finite neg hquot.le hmin hlow (quantize_exp_lt hn hr)
  refine ⟨_, hc, hreal, by positivity, ?_, fun y hy hyr => gap_le hlow hy (hyr.trans_lt habove)⟩
  by_cases hzero : (quantize F n 1 k).rem = 0
  · exact (hexact hzero).ge
  · exact (hbelow hzero).le

/-- The neighbour away from zero. -/
theorem nextOutward_spec (neg : Bool) : ∃ h, (nextOutward F neg n 1 k).canonical F ∧
    (nextOutward F neg n 1 k).isReal ((if neg then -1 else 1) * h) ∧
    (n : ℝ) * (2 : ℝ) ^ k ≤ h ∧
    ∀ y, Representable F y → (n : ℝ) * (2 : ℝ) ^ k ≤ |y| → h ≤ |y| := by
  obtain ⟨-, -, hmin, -⟩ := quantize_spec F k hn one_ne_zero
  obtain ⟨hquot, hlow⟩ := quantize_quot_bounds F k hn one_ne_zero
  obtain ⟨hexact, hbelow, habove⟩ := quantize_between (F := F) (k := k) hn
  have hexp := quantize_exp_lt hn hr
  simp only [nextOutward, if_neg hn]
  by_cases hzero : (quantize F n 1 k).rem = 0
  · rw [if_pos hzero]
    obtain ⟨hc, hreal⟩ := ofQuanta_finite neg hquot.le hmin hlow hexp
    exact ⟨_, hc, hreal, (hexact hzero).le, fun y _ hyr => hexact hzero ▸ hyr⟩
  · rw [if_neg hzero]
    obtain ⟨hc, hreal⟩ := ofQuanta_finite (m := (quantize F n 1 k).quot + 1) neg hquot hmin
      (fun h => (hlow h).trans (Nat.le_succ _)) hexp
    rw [Nat.cast_succ] at hreal
    exact ⟨_, hc, hreal, habove.le,
      fun y hy hyr => gap_ge hlow hy ((hbelow hzero).trans_le hyr)⟩

end

/-! ### The lower neighbour -/

/-- `v`, the real number `l`, is the greatest value of the format that is at most `r`. -/
structure IsBelow (F : Fmt) (r : ℝ) (v : Fp) (l : ℝ) : Prop where
  canonical : v.canonical F
  isReal : v.isReal l
  le : l ≤ r
  greatest : ∀ y, Representable F y → y ≤ r → y ≤ l

/-- `atMost` is the lower neighbour of `i / 2^lnScale`. -/
theorem atMost_isBelow {F : Fmt} {i : Int}
    (hi : |(i : ℝ)| * (2 : ℝ) ^ (-(lnScale : Int)) < (2 : ℝ) ^ F.emax) :
    ∃ l, IsBelow F ((i : ℝ) * (2 : ℝ) ^ (-(lnScale : Int))) (atMost F i) l := by
  have habs : ((i.natAbs : Nat) : ℝ) = |(i : ℝ)| := by rw [Nat.cast_natAbs, Int.cast_abs]
  have hpow : (0 : ℝ) < (2 : ℝ) ^ (-(lnScale : Int)) := by positivity
  rw [← habs] at hi
  unfold atMost
  rcases lt_trichotomy i 0 with hneg | rfl | hpos
  · have hneg' : (i : ℝ) < 0 := by exact_mod_cast hneg
    obtain ⟨h, hc, hreal, hle, hleast⟩ := nextOutward_spec (F := F) (by omega) hi true
    rw [habs, abs_of_neg hneg'] at hle hleast
    rw [if_pos hneg]
    refine ⟨-h, hc, by simpa using hreal, by linarith, fun y hy hyr => ?_⟩
    have hy0 : y < 0 := hyr.trans_lt (mul_neg_of_neg_of_pos hneg' hpow)
    have := hleast y hy (by rw [abs_of_neg hy0]; linarith)
    rw [abs_of_neg hy0] at this
    linarith
  · refine ⟨0, Fp.canonical_zero F false, Fp.zero_isReal F false, by simp, fun y _ hy => ?_⟩
    simpa using hy
  · have hpos' : (0 : ℝ) < i := by exact_mod_cast hpos
    obtain ⟨l, hc, hreal, h0, hle, hgreatest⟩ := nextInward_spec (F := F) (by omega) hi false
    rw [habs, abs_of_pos hpos'] at hle hgreatest
    rw [if_neg (by omega)]
    refine ⟨l, hc, by simpa using hreal, hle, fun y hy hyr => ?_⟩
    rcases le_or_gt y 0 with hy0 | hy0
    · linarith
    · have := hgreatest y hy (by rwa [abs_of_pos hy0])
      rwa [abs_of_pos hy0] at this

/-- A lower neighbour of what is not below zero has the sign plus. -/
theorem atMost_sign {F : Fmt} {i : Int} {neg : Bool} {m : Nat} {e : Int} (hi : 0 ≤ i)
    (h : atMost F i = .fin neg m e) : neg = false := by
  unfold atMost at h
  rw [if_neg (by omega)] at h
  unfold nextInward at h
  split at h
  · cases h
    rfl
  · exact ofQuanta_sign h

/-! ### The next value above -/

/-- `v`, the real number `h`, is the least value of the format that is above `l`. -/
structure IsAbove (F : Fmt) (l : ℝ) (v : Fp) (h : ℝ) : Prop where
  canonical : v.canonical F
  isReal : v.isReal h
  lt : l < h
  least : ∀ y, Representable F y → l < y → h ≤ y

section
variable {F : Fmt} {n : Nat} {t : Int} (hlow : F.minQuantum < t → 2 ^ F.fracBits ≤ n)
include hlow

theorem isAbove_of_neg {l : ℝ} (hn : n < 2 ^ F.precision) (ht : F.minQuantum ≤ t)
    (hmax : t ≤ F.emax - F.fracBits) (hl : l = -((n + 1) * (2 : ℝ) ^ t)) :
    IsAbove F l (.fin true n t) (-((n : ℝ) * (2 : ℝ) ^ t)) := by
  have hpow : (0 : ℝ) < (2 : ℝ) ^ t := by positivity
  subst hl
  refine ⟨⟨hn, ht, hmax, fun h => ?_⟩, Fp.isReal_fin_iff.2 (by simp), by nlinarith,
    fun y hy hly => ?_⟩
  · by_contra hne
    exact absurd (hlow (by omega)) (by omega)
  · rcases le_or_gt 0 y with hy0 | hy0
    · have : 0 ≤ (n : ℝ) * (2 : ℝ) ^ t := by positivity
      linarith
    · have := gap_le hlow hy (by rw [abs_of_neg hy0]; linarith)
      rw [abs_of_neg hy0] at this
      linarith

theorem isAbove_of_pos (hn : n < 2 ^ F.precision) (ht : F.minQuantum ≤ t)
    (hexp : t + F.fracBits < F.emax) :
    IsAbove F ((n : ℝ) * (2 : ℝ) ^ t) (ofQuanta F false (n + 1) t) ((n + 1) * (2 : ℝ) ^ t) := by
  have hpow : (0 : ℝ) < (2 : ℝ) ^ t := by positivity
  obtain ⟨hc, hreal⟩ := ofQuanta_finite (m := n + 1) false hn ht
    (fun h => (hlow h).trans (Nat.le_succ _)) hexp
  refine ⟨hc, by simpa using hreal, by nlinarith, fun y hy hly => ?_⟩
  have hy0 : 0 < y := lt_of_le_of_lt (by positivity) hly
  have := gap_ge hlow hy (by rwa [abs_of_pos hy0])
  rwa [abs_of_pos hy0] at this

end

/-- Above a negative value: one unit towards zero, half a one below a power of two. -/
theorem nextAbove_of_neg {F : Fmt} {m : Nat} {e : Int} (hc : (Fp.fin true m e).canonical F)
    (hm0 : m ≠ 0) : ∃ h, IsAbove F (-((m : ℝ) * (2 : ℝ) ^ e)) (nextAbove F (.fin true m e)) h := by
  have hp := two_pow_precision F
  have hnormal := hc.normal
  obtain ⟨hm, he, hmax, -⟩ := hc
  rw [nextAbove]
  split
  · next hleast =>
    obtain ⟨rfl, he'⟩ := hleast
    have hpred : ((2 ^ F.precision - 1 : Nat) : ℝ) + 1 = 2 * 2 ^ F.fracBits := by
      exact_mod_cast (by omega : 2 ^ F.precision - 1 + 1 = 2 * 2 ^ F.fracBits)
    refine ⟨_, isAbove_of_neg (n := 2 ^ F.precision - 1) (t := e - 1) (fun _ => by omega)
      (by omega) (by omega) (by omega) ?_⟩
    rw [hpred, zpow_sub_one₀ two_ne_zero]
    push_cast
    ring
  · next hnot =>
    have hsucc : ((m - 1 : Nat) : ℝ) + 1 = m := by
      exact_mod_cast Nat.sub_add_cancel (Nat.one_le_iff_ne_zero.2 hm0)
    refine ⟨_, isAbove_of_neg (n := m - 1) (t := e) (fun h => ?_) (by omega) he hmax
      (by rw [hsucc])⟩
    have := hnormal h
    have : m ≠ 2 ^ F.fracBits := fun heq => hnot ⟨heq, h⟩
    omega

/-- Above a value that is not negative: one unit more. -/
theorem nextAbove_of_nonneg {F : Fmt} {m : Nat} {e : Int} (hc : (Fp.fin false m e).canonical F)
    (hlt : (m : ℝ) * (2 : ℝ) ^ e < (2 : ℝ) ^ F.emax) :
    ∃ h, IsAbove F ((m : ℝ) * (2 : ℝ) ^ e) (nextAbove F (.fin false m e)) h := by
  have hnormal := hc.normal
  obtain ⟨hm, he, -, -⟩ := hc
  refine ⟨_, isAbove_of_pos hnormal hm he (exponent_lt_emax he (fun h => ?_) hlt)⟩
  have : (2 : ℝ) ^ F.fracBits ≤ m := by exact_mod_cast hnormal h
  rw [add_comm, zpow_add₀ two_ne_zero, zpow_natCast]
  gcongr

theorem nextAbove_isAbove {F : Fmt} {v : Fp} {l : ℝ} (hc : v.canonical F) (hl : v.isReal l)
    (hzero : ∀ e, v ≠ .fin true 0 e) (hlt : l < (2 : ℝ) ^ F.emax) :
    ∃ h, IsAbove F l (nextAbove F v) h := by
  obtain ⟨neg, m, e, rfl, rfl⟩ := hl
  cases neg with
  | true =>
    obtain ⟨h, hh⟩ := nextAbove_of_neg hc fun h0 => hzero e (by rw [h0])
    exact ⟨h, by simpa using hh⟩
  | false =>
    obtain ⟨h, hh⟩ := nextAbove_of_nonneg hc (by simpa using hlt)
    exact ⟨h, by simpa using hh⟩

end Sys2Proof.Machine

/-! # The logarithm (42_fp_conversion_and_reals.md R138; log 5)

The lower neighbour belongs to a monotone bound, so it is monotone itself; arguments with different
lower neighbours cannot be given results in the wrong order, and those with the same one are cut in
two by their encodings, which are ordered as they are. -/

namespace Sys2Proof.Machine

/-! ### Positive and negative values -/

theorem Fp.isReal.of_pos {a : Fp} {x : ℝ} (ha : a.isReal x) (hx : 0 < x) :
    ∃ m e, a = .fin false m e ∧ m ≠ 0 ∧ x = (m : ℝ) * (2 : ℝ) ^ e := by
  obtain ⟨neg, m, e, rfl, rfl⟩ := ha
  have hm : m ≠ 0 := finReal_eq_zero_iff.not.1 hx.ne'
  cases neg
  · exact ⟨m, e, rfl, hm, by simp⟩
  · exact absurd (finReal_neg_iff.2 ⟨rfl, hm⟩) hx.not_gt

theorem Fp.isReal.of_neg {a : Fp} {x : ℝ} (ha : a.isReal x) (hx : x < 0) :
    ∃ m e, a = .fin true m e ∧ m ≠ 0 := by
  obtain ⟨neg, m, e, rfl, rfl⟩ := ha
  obtain ⟨rfl, hm⟩ := finReal_neg_iff.1 hx
  exact ⟨m, e, rfl, hm⟩

/-- The greatest value of the format below 1 (42_fp_conversion_and_reals.md R126). -/
theorem Representable.le_of_lt_one {F : Fmt} {x : ℝ} (hx : Representable F x) (h0 : 0 < x)
    (h1 : x < 1) : x ≤ 1 - (2 : ℝ) ^ (-(F.precision : Int)) := by
  have hp := two_pow_precision F
  have hone : ((2 ^ F.precision - 1 : Nat) : ℝ) + 1 = 2 ^ F.precision := by
    exact_mod_cast Nat.sub_add_cancel Nat.one_le_two_pow
  have hunit : (2 : ℝ) ^ F.precision * (2 : ℝ) ^ (-(F.precision : Int)) = 1 := by
    rw [zpow_neg, zpow_natCast]
    exact mul_inv_cancel₀ (by positivity)
  have hgap := gap_le (n := 2 ^ F.precision - 1) (t := -(F.precision : Int))
    (fun _ => by have := Nat.one_le_two_pow (n := F.fracBits); omega) hx
    (by rwa [hone, hunit, abs_of_pos h0])
  rwa [abs_of_pos h0, ← add_sub_cancel_right ((2 ^ F.precision - 1 : Nat) : ℝ) 1, hone, sub_mul,
    hunit, one_mul] at hgap

/-! ### The order of encodings -/

/-- The encoding of a canonical value with the sign plus, as a number. -/
theorem pack_toNat {F : Fmt} {m : Nat} {e : Int} (hc : (Fp.fin false m e).canonical F) :
    ((Fp.fin false m e).pack F 0).toNat = (e - F.minQuantum).toNat * 2 ^ F.fracBits + m := by
  have hp := two_pow_precision F
  have hmax := emax_quantum F
  have hones := expOnes_lt F
  obtain ⟨hm, he, hle, hsub⟩ := hc
  rw [Fp.pack]
  split
  · next hlt =>
    rw [encoding_toNat (Nat.two_pow_pos _) hlt, hsub hlt]
    simp
  · next hge =>
    obtain ⟨k, rfl⟩ : ∃ k : Nat, e = F.minQuantum + k := ⟨(e - F.minQuantum).toNat, by omega⟩
    rw [add_sub_cancel_left, Int.toNat_natCast, Int.toNat_natCast_add_one,
      encoding_toNat (by omega) (by omega), Nat.succ_mul]
    simp
    omega

theorem pack_mono {F : Fmt} {m n : Nat} {d e : Int} (ha : (Fp.fin false m d).canonical F)
    (hb : (Fp.fin false n e).canonical F)
    (h : (m : ℝ) * (2 : ℝ) ^ d ≤ (n : ℝ) * (2 : ℝ) ^ e) :
    (Fp.fin false m d).pack F 0 ≤ (Fp.fin false n e).pack F 0 := by
  rw [BitVec.le_def, pack_toNat ha, pack_toNat hb]
  have hp := two_pow_precision F
  have hnormala := ha.normal
  have hnormalb := hb.normal
  obtain ⟨hm, hd, -, -⟩ := ha
  obtain ⟨hn, he, -, -⟩ := hb
  obtain ⟨j, rfl⟩ : ∃ j : Nat, d = F.minQuantum + j := ⟨(d - F.minQuantum).toNat, by omega⟩
  obtain ⟨k, rfl⟩ : ∃ k : Nat, e = F.minQuantum + k := ⟨(e - F.minQuantum).toNat, by omega⟩
  rw [add_sub_cancel_left, add_sub_cancel_left, Int.toNat_natCast, Int.toNat_natCast]
  have hpow : (0 : ℝ) < (2 : ℝ) ^ F.minQuantum := by positivity
  have hnat : m * 2 ^ j ≤ n * 2 ^ k := by
    simp only [zpow_add₀ (two_ne_zero (α := ℝ)), zpow_natCast] at h
    have : (m : ℝ) * 2 ^ j ≤ n * 2 ^ k := by nlinarith
    exact_mod_cast this
  rcases lt_trichotomy j k with hlt | rfl | hgt
  · have hnormal : 2 ^ F.fracBits ≤ n := hnormalb (by omega)
    have := Nat.mul_le_mul_right (2 ^ F.fracBits) (Nat.succ_le_of_lt hlt)
    rw [Nat.succ_mul] at this
    omega
  · have := Nat.le_of_mul_le_mul_right hnat (Nat.two_pow_pos j)
    omega
  · -- A greater exponent belongs to a normal value, which is greater.
    have hnormal : 2 ^ F.fracBits ≤ m := hnormala (by omega)
    have htwo : 2 * 2 ^ k ≤ 2 ^ j := by
      rw [← pow_succ']
      exact Nat.pow_le_pow_right two_pos hgt
    have h1 := Nat.mul_le_mul hnormal htwo
    have h2 := Nat.mul_lt_mul_of_pos_right hn (Nat.two_pow_pos k)
    rw [hp] at h2
    nlinarith

/-! ### The two neighbours -/

section
variable {F : Fmt} {m : Nat} {e : Int} (hc : (Fp.fin false m e).canonical F) (hm : m ≠ 0)
include hc

theorem lnExponent_bound : -1074 ≤ lnExponent m e ∧ lnExponent m e ≤ 1023 := by
  obtain ⟨hlt, he, hmax, -⟩ := hc
  have hlog : Nat.log2 m ≤ F.fracBits := by
    by_cases h0 : m = 0
    · simp [h0]
    · have := (Nat.log2_lt h0).2 hlt
      have := F.fracBits_succ
      omega
  have hmin : -1074 ≤ F.minQuantum := by cases F <;> decide
  have hemax : F.emax ≤ 1023 := by cases F <;> decide
  unfold lnExponent
  omega

include hm

/-- The bound is less than `2^(-230)` below the logarithm (log 5). -/
theorem lnLow_close : (lnLow m e : ℝ) ≤ 2 ^ lnScale * Real.log ((m : ℝ) * (2 : ℝ) ^ e) ∧
    2 ^ lnScale * Real.log ((m : ℝ) * (2 : ℝ) ^ e) ≤ lnLow m e + 2 ^ 26 := by
  obtain ⟨hlo, hhi⟩ := lnLow_bounds e hm
  obtain ⟨hk1, hk2⟩ := lnExponent_bound hc
  have hk : |(lnExponent m e : ℝ)| ≤ 1074 := by
    exact_mod_cast abs_le.2 ⟨hk1, by omega⟩
  refine ⟨hlo, hhi.trans ?_⟩
  have hterms : (lnTerms : ℝ) = 90 := by norm_num [lnTerms]
  rw [hterms]
  linarith

theorem abs_log_le : |Real.log ((m : ℝ) * (2 : ℝ) ^ e)| ≤ 1074 := by
  obtain ⟨hk1, hk2⟩ := lnExponent_bound hc
  obtain ⟨hlo, hhi⟩ := value_range e hm
  have hlog2 : Real.log 2 ≤ 1 := by linarith [Real.log_two_lt_d9]
  have hlog0 : 0 ≤ Real.log 2 := Real.log_nonneg one_le_two
  have h1 := Real.log_le_log (by positivity) hlo
  have h2 := Real.log_le_log (by positivity) hhi.le
  rw [Real.log_zpow] at h1 h2
  have hk1' : (-1074 : ℝ) ≤ lnExponent m e := by exact_mod_cast hk1
  have hk2' : ((lnExponent m e + 1 : Int) : ℝ) ≤ 1024 := by exact_mod_cast (by omega)
  rw [abs_le]
  constructor <;> nlinarith

theorem lnLow_finite : |(lnLow m e : ℝ)| * (2 : ℝ) ^ (-(lnScale : Int)) < (2 : ℝ) ^ F.emax := by
  obtain ⟨hlo, hhi⟩ := lnLow_close hc hm
  obtain ⟨hlog1, hlog2⟩ := abs_le.1 (abs_log_le hc hm)
  have hscale : (2 : ℝ) ^ 26 ≤ 2 ^ lnScale := pow_le_pow_right₀ one_le_two (by decide)
  have hpos : (0 : ℝ) < 2 ^ lnScale := by positivity
  have habs : |(lnLow m e : ℝ)| ≤ 2 ^ lnScale * 2 ^ (11 : Int) := by
    rw [abs_le]
    norm_num
    constructor <;> nlinarith
  have hemax := le_emax F
  rw [zpow_neg, zpow_natCast, ← div_eq_mul_inv, div_lt_iff₀ hpos, mul_comm]
  refine habs.trans_lt (mul_lt_mul_of_pos_left ?_ hpos)
  exact zpow_lt_zpow_right₀ one_lt_two (by omega)

theorem lnBelow_isBelow :
    ∃ l, IsBelow F ((lnLow m e : ℝ) * (2 : ℝ) ^ (-(lnScale : Int))) (lnBelow F m e) l :=
  atMost_isBelow (lnLow_finite hc hm)

end

/-- A lower neighbour is no `-0`. -/
theorem atMost_ne_negZero {F : Fmt} {i : Int} {l : ℝ}
    (h : IsBelow F ((i : ℝ) * (2 : ℝ) ^ (-(lnScale : Int))) (atMost F i) l) (e : Int) :
    atMost F i ≠ .fin true 0 e := by
  intro heq
  rcases lt_or_ge i 0 with hneg | hpos
  · obtain ⟨-, hreal, hle, -⟩ := h
    have hneg' : (i : ℝ) < 0 := by exact_mod_cast hneg
    have hzero : l = 0 := by
      rw [heq] at hreal
      simpa using Fp.isReal_fin_iff.1 hreal
    have := mul_neg_of_neg_of_pos hneg' (by positivity : (0 : ℝ) < (2 : ℝ) ^ (-(lnScale : Int)))
    linarith
  · exact absurd (atMost_sign hpos heq) (by decide)

/-- Lower neighbours that are the same real number are the same value. -/
theorem atMost_unique {F : Fmt} {i j : Int} {l : ℝ}
    (hi : IsBelow F ((i : ℝ) * (2 : ℝ) ^ (-(lnScale : Int))) (atMost F i) l)
    (hj : IsBelow F ((j : ℝ) * (2 : ℝ) ^ (-(lnScale : Int))) (atMost F j) l) :
    atMost F i = atMost F j := by
  obtain ⟨hic, hir, -⟩ := id hi
  obtain ⟨hjc, hjr, -⟩ := id hj
  by_cases hl : l = 0
  · subst hl
    obtain ⟨ni, mi, ei, hieq, hi0⟩ := id hir
    obtain ⟨nj, mj, ej, hjeq, hj0⟩ := id hjr
    obtain rfl := finReal_eq_zero_iff.1 hi0.symm
    obtain rfl := finReal_eq_zero_iff.1 hj0.symm
    have hni : ni = false := by
      cases ni
      · rfl
      · exact absurd hieq (atMost_ne_negZero hi ei)
    have hnj : nj = false := by
      cases nj
      · rfl
      · exact absurd hjeq (atMost_ne_negZero hj ej)
    rw [hieq] at hic ⊢
    rw [hjeq] at hjc ⊢
    obtain ⟨-, rfl⟩ := canonical_parts_unique hic hjc (by simp)
    rw [hni, hnj]
  · exact hic.ext hjc hir hjr hl

/-! ### The two neighbours of a logarithm -/

/-- What LN-4 asks of the two values offered, `l` and `h` being their real numbers
(42_fp_conversion_and_reals.md R138; log 5). -/
structure LnNeighbours (F : Fmt) (m : Nat) (e : Int) (l h : ℝ) : Prop where
  below : IsBelow F ((lnLow m e : ℝ) * (2 : ℝ) ^ (-(lnScale : Int))) (lnBelow F m e) l
  above : IsAbove F l (lnAbove F m e) h
  le_log : l ≤ Real.log ((m : ℝ) * (2 : ℝ) ^ e)
  log_le : Real.log ((m : ℝ) * (2 : ℝ) ^ e) ≤ h + (2 : ℝ) ^ (-230 : Int)

theorem exists_lnNeighbours {F : Fmt} {m : Nat} {e : Int} (hc : (Fp.fin false m e).canonical F)
    (hm : m ≠ 0) : ∃ l h, LnNeighbours F m e l h := by
  obtain ⟨l, hbelow⟩ := lnBelow_isBelow hc hm
  obtain ⟨hlc, hlr, hle, hgreatest⟩ := id hbelow
  obtain ⟨hlo, hhi⟩ := lnLow_close hc hm
  have hfinite := lnLow_finite hc hm
  have hunit : (0 : ℝ) < (2 : ℝ) ^ (-(lnScale : Int)) := by positivity
  have hscale : (2 : ℝ) ^ lnScale * (2 : ℝ) ^ (-(lnScale : Int)) = 1 := by
    rw [zpow_neg, zpow_natCast]
    exact mul_inv_cancel₀ (by positivity)
  have hlmax : l < (2 : ℝ) ^ F.emax :=
    (hle.trans (mul_le_mul_of_nonneg_right (le_abs_self _) hunit.le)).trans_lt hfinite
  obtain ⟨h, habove⟩ := nextAbove_isAbove hlc hlr (atMost_ne_negZero hbelow) hlmax
  obtain ⟨hhc, hhr, hlh, -⟩ := id habove
  have hlow : (lnLow m e : ℝ) * (2 : ℝ) ^ (-(lnScale : Int)) < h := by
    by_contra! hge
    exact absurd (hgreatest h ⟨_, hhc, hhr⟩ hge) (not_le.2 hlh)
  have hlo' := mul_le_mul_of_nonneg_right hlo hunit.le
  have hhi' := mul_le_mul_of_nonneg_right hhi hunit.le
  rw [mul_right_comm, hscale, one_mul] at hlo' hhi'
  have herror : (2 : ℝ) ^ 26 * (2 : ℝ) ^ (-(lnScale : Int)) = (2 : ℝ) ^ (-230 : Int) := by
    norm_num [lnScale]
  rw [add_mul, herror] at hhi'
  exact ⟨l, h, hbelow, habove, hle.trans hlo', by linarith⟩

section
variable {F : Fmt} {m : Nat} {e : Int} {l h : ℝ} (hn : LnNeighbours F m e l h)
include hn

/-- The value offered is one of the two. -/
theorem LnNeighbours.lnFaithful_isReal :
    ∃ r, (lnFaithful F m e).isReal r ∧ l ≤ r ∧ r ≤ h := by
  obtain ⟨-, hlr, -, -⟩ := hn.below
  obtain ⟨-, hhr, hlh, -⟩ := hn.above
  simp only [lnFaithful]
  split
  · exact ⟨l, hlr, le_rfl, hlh.le⟩
  · exact ⟨h, hhr, hlh.le, le_rfl⟩

/-- Below 1 even the upper neighbour is negative: a value of the format lies between the logarithm
and 0. -/
theorem LnNeighbours.upper_neg (hc : (Fp.fin false m e).canonical F) (hm : m ≠ 0)
    (hlt : (m : ℝ) * (2 : ℝ) ^ e < 1) : h < 0 := by
  obtain ⟨-, -, -, hleast⟩ := hn.above
  have hpos : (0 : ℝ) < (m : ℝ) * (2 : ℝ) ^ e := by positivity
  have hrep : Representable F ((m : ℝ) * (2 : ℝ) ^ e) :=
    ⟨_, hc, Fp.isReal_fin_iff.2 (by simp)⟩
  have hx := hrep.le_of_lt_one hpos hlt
  have hlog := Real.log_le_sub_one_of_pos hpos
  have hhalf : (0 : ℝ) < (2 : ℝ) ^ (-(F.precision : Int) - 1) := by positivity
  have hdouble : (2 : ℝ) ^ (-(F.precision : Int)) = (2 : ℝ) ^ (-(F.precision : Int) - 1) * 2 := by
    rw [← zpow_add_one₀ two_ne_zero, sub_add_cancel]
  have hunit : Representable F ((2 : ℝ) ^ (-(F.precision : Int) - 1)) :=
    representable_two_zpow F (by cases F <;> decide) (by cases F <;> decide)
  have hle := hleast _ hunit.neg (by have := hn.le_log; linarith)
  linarith

/-- From 1 on even the lower neighbour is not below 0. -/
theorem LnNeighbours.lower_nonneg (hm : m ≠ 0) (hge : 1 ≤ (m : ℝ) * (2 : ℝ) ^ e) : 0 ≤ l := by
  obtain ⟨-, -, -, hgreatest⟩ := hn.below
  refine hgreatest 0 (representable_zero F) ?_
  have hone : lnLow 1 0 ≤ lnLow m e := lnLow_mono one_ne_zero hm (by simpa using hge)
  have hzero : 0 ≤ lnLow 1 0 := by decide +kernel
  have : (0 : ℝ) ≤ lnLow m e := by exact_mod_cast hzero.trans hone
  positivity

end

/-- The value offered is monotone (42_fp_conversion_and_reals.md R138, LN-3). -/
theorem lnFaithful_mono {F : Fmt} {m n : Nat} {d e : Int} {r r' : ℝ}
    (ha : (Fp.fin false m d).canonical F) (hb : (Fp.fin false n e).canonical F) (hm : m ≠ 0)
    (hn : n ≠ 0) (hle : (m : ℝ) * (2 : ℝ) ^ d ≤ (n : ℝ) * (2 : ℝ) ^ e)
    (hr : (lnFaithful F m d).isReal r) (hr' : (lnFaithful F n e).isReal r') : r ≤ r' := by
  obtain ⟨l, h, hN⟩ := exists_lnNeighbours ha hm
  obtain ⟨l', h', hN'⟩ := exists_lnNeighbours hb hn
  obtain ⟨hlc, hlr, hllow, -⟩ := id hN.below
  obtain ⟨hlc', hlr', -, hgreatest'⟩ := id hN'.below
  obtain ⟨s, hs, hls, hsh⟩ := hN.lnFaithful_isReal
  obtain ⟨s', hs', hls', hsh'⟩ := hN'.lnFaithful_isReal
  obtain rfl := hr.unique hs
  obtain rfl := hr'.unique hs'
  have hlow : (lnLow m d : ℝ) ≤ lnLow n e := by exact_mod_cast lnLow_mono hm hn hle
  have hll : l ≤ l' := hgreatest' l ⟨_, hlc, hlr⟩ (hllow.trans (by gcongr))
  rcases hll.lt_or_eq with hlt | rfl
  · obtain ⟨-, -, -, hleast⟩ := hN.above
    linarith [hleast l' ⟨_, hlc', hlr'⟩ hlt]
  · have hlo : lnBelow F m d = lnBelow F n e := atMost_unique hN.below hN'.below
    have hhi : lnAbove F n e = lnAbove F m d := congrArg (nextAbove F) hlo.symm
    by_cases hcut : (Fp.fin false n e).pack F 0 < Config.lnCut F ((lnBelow F n e).pack F 0)
    · have hm' : lnFaithful F m d = lnBelow F m d :=
        if_pos (by rw [hlo]; exact (BitVec.le_def.1 (pack_mono ha hb hle)).trans_lt hcut)
      have hn' : lnFaithful F n e = lnBelow F n e := if_pos hcut
      rw [hm', hlo, ← hn'] at hr
      exact (hr.unique hr').le
    · have hn' : lnFaithful F n e = lnAbove F n e := if_neg hcut
      obtain ⟨-, hhr, -⟩ := hN.above
      rw [hn', hhi] at hr'
      exact (hr'.unique hhr).symm ▸ hsh

/-! ### `LN_F` -/

theorem Fp.ln_one (F : Fmt) : Fp.ln F (.one F) = .zero F false := if_pos rfl

theorem Fp.ln_of_ne_one {F : Fmt} {m : Nat} {e : Int} (h : Fp.fin false m e ≠ .one F)
    (hm : m ≠ 0) : Fp.ln F (.fin false m e) = lnFaithful F m e := by
  simp only [Fp.ln, if_neg h, if_neg hm]

section
variable {F : Fmt} {a : Fp} {x : ℝ} (hc : a.canonical F) (ha : a.isReal x)
include hc ha

theorem eq_one_iff : a = .one F ↔ x = 1 := by
  constructor
  · rintro rfl
    exact ha.unique (one_isReal F)
  · rintro rfl
    exact hc.ext (one_canonical F) ha (one_isReal F) one_ne_zero

/-- The neighbours of a logarithm other than that of 1 (42_fp_conversion_and_reals.md R138, LN-4). -/
theorem Fp.ln_neighbours (hx : 0 < x) (hone : a ≠ .one F) : ∃ m e l h,
    a = .fin false m e ∧ m ≠ 0 ∧ x = (m : ℝ) * (2 : ℝ) ^ e ∧ Fp.ln F a = lnFaithful F m e ∧
      LnNeighbours F m e l h := by
  obtain ⟨m, e, rfl, hm, hxm⟩ := ha.of_pos hx
  obtain ⟨l, h, hN⟩ := exists_lnNeighbours hc hm
  exact ⟨m, e, l, h, rfl, hm, hxm, Fp.ln_of_ne_one hone hm, hN⟩

/-- LN-2 (42_fp_conversion_and_reals.md R138). -/
theorem Fp.ln_neg (hx : 0 < x) (hx1 : x < 1) : ∃ r, (Fp.ln F a).isReal r ∧ r < 0 := by
  obtain ⟨m, e, l, h, rfl, hm, rfl, hln, hN⟩ :=
    Fp.ln_neighbours hc ha hx ((eq_one_iff hc ha).not.2 hx1.ne)
  obtain ⟨r, hr, -, hrh⟩ := hN.lnFaithful_isReal
  exact ⟨r, hln ▸ hr, hrh.trans_lt (hN.upper_neg hc hm hx1)⟩

theorem Fp.ln_nonneg (hx1 : 1 ≤ x) : ∃ r, (Fp.ln F a).isReal r ∧ 0 ≤ r := by
  by_cases hone : a = .one F
  · exact ⟨0, by rw [hone, Fp.ln_one]; exact Fp.zero_isReal F false, le_rfl⟩
  · obtain ⟨m, e, l, h, rfl, hm, rfl, hln, hN⟩ :=
      Fp.ln_neighbours hc ha (zero_lt_one.trans_le hx1) hone
    obtain ⟨r, hr, hlr, -⟩ := hN.lnFaithful_isReal
    exact ⟨r, hln ▸ hr, (hN.lower_nonneg hm hx1).trans hlr⟩

end

/-- LN-3 (42_fp_conversion_and_reals.md R138): across 1 by the signs, and on either side of it by
`lnFaithful_mono`. -/
theorem Fp.ln_mono {F : Fmt} {a b : Fp} {x y : ℝ} (hac : a.canonical F) (hbc : b.canonical F)
    (ha : a.isReal x) (hb : b.isReal y) (hx : 0 < x) (hxy : x ≤ y) :
    ∃ l h : ℝ, (Fp.ln F a).isReal l ∧ (Fp.ln F b).isReal h ∧ l ≤ h := by
  by_cases haone : a = .one F
  · obtain rfl := (eq_one_iff hac ha).1 haone
    obtain ⟨r, hr, hpos⟩ := Fp.ln_nonneg hbc hb hxy
    exact ⟨0, r, by rw [haone, Fp.ln_one]; exact Fp.zero_isReal F false, hr, hpos⟩
  by_cases hbone : b = .one F
  · obtain rfl := (eq_one_iff hbc hb).1 hbone
    obtain ⟨r, hr, hneg⟩ :=
      Fp.ln_neg hac ha hx (lt_of_le_of_ne hxy ((eq_one_iff hac ha).not.1 haone))
    exact ⟨r, 0, hr, by rw [hbone, Fp.ln_one]; exact Fp.zero_isReal F false, hneg.le⟩
  obtain ⟨m, d, l, h, rfl, hm, rfl, hlna, hN⟩ := Fp.ln_neighbours hac ha hx haone
  obtain ⟨n, e, l', h', rfl, hn, rfl, hlnb, hN'⟩ :=
    Fp.ln_neighbours hbc hb (hx.trans_le hxy) hbone
  obtain ⟨r, hr, -⟩ := hN.lnFaithful_isReal
  obtain ⟨r', hr', -⟩ := hN'.lnFaithful_isReal
  exact ⟨r, r', hlna ▸ hr, hlnb ▸ hr', lnFaithful_mono hac hbc hm hn hxy hr hr'⟩

/-- Settles O42: LN-1 by definition, LN-2 to LN-4 by the lemmas above. -/
theorem logarithmProperties : Obligations.LogarithmProperties := by
  refine fun F => ⟨Fp.ln_one F, fun a x hc ha hx hx1 => ?_, fun a b x y => Fp.ln_mono,
    fun a x hc ha hx hone => ?_⟩
  · obtain ⟨r, hr, hneg⟩ := Fp.ln_neg hc ha hx hx1
    exact hr.of_neg hneg
  · obtain ⟨m, e, l, h, rfl, hm, rfl, hln, hN⟩ := Fp.ln_neighbours hc ha hx hone
    obtain ⟨hlc, hlr, -, -⟩ := hN.below
    obtain ⟨hhc, hhr, -, hleast⟩ := hN.above
    refine ⟨_, _, l, h, hlc, hhc, hlr, hhr, hN.le_log, hN.log_le, ?_, ?_⟩
    · exact fun v r hv hr hbetween =>
        absurd (hleast r ⟨v, hv, hr⟩ hbetween.1) (not_le.2 hbetween.2)
    · rw [hln]
      exact ite_eq_or_eq _ _ _

end Sys2Proof.Machine

/-! # Rejection loops, burst after burst (43_disk_gaussian_sampler.md R160, R163; log 3)

A burst of rejections does nothing but iterate. So a command that has rejected for some bursts is
still executing and stands where its iterations lead, and the burst that accepts ends it. -/

namespace Sys2Proof.Machine

/-! ### The commands that sample the disk -/

/-- `i` is a rejection loop whose ending overwrites the phase and leaves both generators as they
are. -/
structure IsSampler (i : Instr) (F : Fmt) (finish : Candidate → State → State) : Prop
    extends IsLoop i F finish where
  finish_phase : ∀ c u p, finish c { u with phase := p } = finish c u
  finish_g32 : ∀ c u, (finish c u).g32 = u.g32
  finish_g64 : ∀ c u, (finish c u).g64 = u.g64

section
variable (F : Fmt) (factor : Fmt → Fp → Fp) (c : Candidate) (u : State)

theorem finishPoint_phase (p : Phase) :
    finishPoint F factor c { u with phase := p } = finishPoint F factor c u := by
  unfold finishPoint
  split <;> rfl

theorem finishPoint_g32 : (finishPoint F factor c u).g32 = u.g32 := by
  unfold finishPoint
  split <;> rfl

theorem finishPoint_g64 : (finishPoint F factor c u).g64 = u.g64 := by
  unfold finishPoint
  split <;> rfl

theorem finishScaled_g32 : (finishScaled F factor c u).g32 = u.g32 := by
  unfold finishScaled
  split <;> rfl

theorem finishScaled_g64 : (finishScaled F factor c u).g64 = u.g64 := by
  unfold finishScaled
  split <;> rfl

end

theorem isSampler_disk (g : Gen) (F : Fmt) :
    IsSampler (.disk g F) F fun c t => t.respondTriple F c.x c.y c.s :=
  ⟨⟨rfl, fun _ => rfl, fun _ => endsCommand_respondTriple F _ _ _⟩,
    fun _ _ _ => rfl, fun _ _ => rfl, fun _ _ => rfl⟩

section
variable {i : Instr} {F : Fmt} {factor : Fmt → Fp → Fp}

theorem isSampler_finishPoint (hfmt : i.fmt = some F)
    (hexec : ∀ s, exec i s = withDisk i.gen F (finishPoint F factor) s) :
    IsSampler i F (finishPoint F factor) :=
  ⟨⟨hfmt, hexec, endsCommand_finishPoint F factor⟩, finishPoint_phase F factor,
    finishPoint_g32 F factor, finishPoint_g64 F factor⟩

theorem isSampler_finishScaled (hfmt : i.fmt = some F)
    (hexec : ∀ s, exec i s = withDisk i.gen F (finishScaled F factor) s) :
    IsSampler i F (finishScaled F factor) :=
  ⟨⟨hfmt, hexec, endsCommand_finishScaled F factor⟩, finishScaled_phase F factor,
    finishScaled_g32 F factor, finishScaled_g64 F factor⟩

end

section
variable (g : Gen) (F : Fmt)

theorem isSampler_gauss : IsSampler (.gauss g F) F (finishPoint F gaussFactor) :=
  isSampler_finishPoint rfl fun _ => rfl

theorem isSampler_gaussr : IsSampler (.gaussr g F) F (finishScaled F gaussFactor) :=
  isSampler_finishScaled rfl fun _ => rfl

theorem isSampler_expo : IsSampler (.expo g F) F (finishPoint F expoFactor) :=
  isSampler_finishPoint rfl fun _ => rfl

theorem isSampler_expor : IsSampler (.expor g F) F (finishScaled F expoFactor) :=
  isSampler_finishScaled rfl fun _ => rfl

end

theorem exists_isSampler {i : Instr} {F : Fmt} (hi : i.samplesDisk = true)
    (hfmt : i.fmt = some F) : ∃ finish, IsSampler i F finish := by
  cases i with
  | disk g => cases hfmt; exact ⟨_, isSampler_disk g F⟩
  | gauss g => cases hfmt; exact ⟨_, isSampler_gauss g F⟩
  | gaussr g => cases hfmt; exact ⟨_, isSampler_gaussr g F⟩
  | expo g => cases hfmt; exact ⟨_, isSampler_expo g F⟩
  | expor g => cases hfmt; exact ⟨_, isSampler_expor g F⟩
  | _ => exact absurd hi (by simp [Instr.samplesDisk])

/-- Where iteration `k + 1` is the first to accept, the command ends as `finish` says: within one
transition where a burst reaches that iteration, and in `k / diskBurst + 1` transitions always. -/
theorem IsSampler.ends_of_acceptsAfter {i : Instr} {F : Fmt} {finish : Candidate → State → State}
    (hi : IsSampler i F finish) {s t : State} {k : Nat} (hacc : s.acceptsAfter i.gen F k)
    (ht : finish ((s.afterIterations i.gen k).candidate i.gen F)
      (s.afterIterations i.gen (k + 1)) = t) :
    (k < Config.diskBurst → exec i s = .next t) ∧
      repeatExec i (k / Config.diskBurst + 1) s = .next t := by
  subst ht
  exact ⟨fun hk => by rw [hi.exec_eq, withDisk_of_acceptsAfter finish hk hacc],
    repeatExec_of_acceptsAfter hi.exec_eq hi.finish_phase hacc⟩

/-! ### A live block in a rejection loop -/

/-- A live block is executing `i`. -/
structure State.Executes (s : State) (i : Instr) : Prop where
  live : s.live
  executing : s.phase = .executing
  decodes : decode s.cmd = .ok i

section
variable {s : State} {i : Instr}

theorem State.Executes.step_eq (hs : s.Executes i) : step s = exec i s :=
  (stepRunsDecodedCommand s i hs.live).2 hs.executing hs.decodes

theorem State.Executes.afterIterations (hs : s.Executes i) (g : Gen) (k : Nat) :
    (s.afterIterations g k).Executes i := by
  obtain ⟨hphase, hcmd, -, hseen, hrst, -⟩ := s.afterIterations_frame g k
  obtain ⟨⟨hlow, hreset⟩, hp, hdec⟩ := hs
  exact ⟨⟨hrst.trans hlow, hseen.trans hreset⟩, hphase.trans hp, by rw [hcmd, hdec]⟩

theorem State.Executes.rspValid_eq_false (hs : s.Executes i) : s.rspValid = false := by
  obtain ⟨⟨hrst, hseen⟩, hp, -⟩ := hs
  simp [State.rspValid, State.rspPort, hrst, hseen, hp]

theorem State.Executes.cmdReady_eq_false (hs : s.Executes i) : s.cmdReady = false := by
  simp [cmdReady_live hs.live, hs.executing]

theorem State.Executes.afterBurst_eq (hs : s.Executes i) (g : Gen) :
    s.afterBurst g = s.afterIterations g Config.diskBurst := by
  rw [State.afterBurst, ← (hs.afterIterations g Config.diskBurst).executing]

theorem run_succ_of_step {t : State} (h : step s = .next t) (n : Nat) :
    run (n + 1) s = run n t := by
  simp [run, h]

theorem repeatExec_succ_of_exec {t : State} (h : exec i s = .next t) (n : Nat) :
    repeatExec i (n + 1) s = repeatExec i n t := by
  simp [repeatExec, h]

variable {F : Fmt} {finish : Candidate → State → State} (hi : IsLoop i F finish)
include hi

theorem IsLoop.exec_of_rejectsFor (hs : s.Executes i)
    (h : s.rejectsFor i.gen F Config.diskBurst) :
    exec i s = .next (s.afterIterations i.gen Config.diskBurst) := by
  rcases hi.exec_cases s with ⟨k, hk, -, hacc, -⟩ | ⟨-, hexec⟩
  · exact absurd hacc.2 (by simp [h k hk])
  · rw [hexec, hs.afterBurst_eq]

/-- The key fact: `n` bursts of rejections are `n` transitions, and `n` repetitions of the command,
to the state their iterations lead to. -/
theorem IsLoop.run_and_repeatExec_add (hs : s.Executes i) {n : Nat}
    (h : s.rejectsFor i.gen F (n * Config.diskBurst)) (m : Nat) :
    run (n + m) s = run m (s.afterIterations i.gen (n * Config.diskBurst)) ∧
      repeatExec i (n + m) s =
        repeatExec i m (s.afterIterations i.gen (n * Config.diskBurst)) := by
  induction n generalizing s with
  | zero => rw [Nat.zero_mul, Nat.zero_add]; exact ⟨rfl, rfl⟩
  | succ n ih =>
    rw [Nat.succ_mul, Nat.add_comm (n * _), State.rejectsFor_add] at h
    obtain ⟨hfirst, hrest⟩ := h
    have hexec := hi.exec_of_rejectsFor hs hfirst
    rw [Nat.succ_mul, Nat.add_comm (n * _), State.afterIterations_add, Nat.succ_add,
      run_succ_of_step (hs.step_eq.trans hexec), repeatExec_succ_of_exec hexec]
    exact ih (hs.afterIterations i.gen Config.diskBurst) hrest

theorem IsLoop.run_of_rejectsFor (hs : s.Executes i) {n : Nat}
    (h : s.rejectsFor i.gen F (n * Config.diskBurst)) :
    run n s = .next (s.afterIterations i.gen (n * Config.diskBurst)) :=
  (hi.run_and_repeatExec_add hs h 0).1

/-- One transition after the bursts that reject, the block and the repeated command still agree. -/
theorem IsLoop.run_succ_eq_repeatExec (hs : s.Executes i) {n : Nat}
    (h : s.rejectsFor i.gen F (n * Config.diskBurst)) :
    run (n + 1) s = repeatExec i (n + 1) s := by
  obtain ⟨hrun, hrepeat⟩ := hi.run_and_repeatExec_add hs h 1
  rw [hrun, hrepeat]
  simp only [run, repeatExec, (hs.afterIterations i.gen (n * Config.diskBurst)).step_eq]

end

/-- Settles O60, by `IsLoop.run_of_rejectsFor`. -/
theorem rejectingLoopStaysBusy : Obligations.RejectingLoopStaysBusy := by
  intro i F s n hlive hp hdec hi hfmt hrej
  obtain ⟨finish, hloop⟩ := exists_isSampler hi hfmt
  have hs : s.Executes i := ⟨hlive, hp, hdec⟩
  have ht := hs.afterIterations i.gen (n * Config.diskBurst)
  have hsame := sameInterface_afterIterations i.gen (n * Config.diskBurst) s
  exact ⟨hloop.run_of_rejectsFor hs hrej, ht.executing, ht.rspValid_eq_false,
    ht.cmdReady_eq_false, hsame.commands, hsame.received⟩

/-- Settles O59: `k / diskBurst` whole bursts reject, and one transition more ends the command. -/
theorem acceptingLoopResponds : Obligations.AcceptingLoopResponds := by
  intro i F s k hlive hp hdec hi hfmt hacc
  obtain ⟨finish, hloop⟩ := exists_isSampler hi hfmt
  have hs : s.Executes i := ⟨hlive, hp, hdec⟩
  have hrej {n : Nat} (hn : n ≤ k / Config.diskBurst) :
      s.rejectsFor i.gen F (n * Config.diskBurst) :=
    State.rejectsFor_mono ((Nat.mul_le_mul_right _ hn).trans (Nat.div_mul_le_self k _)) hacc.1
  obtain ⟨-, hrepeat⟩ := hloop.ends_of_acceptsAfter hacc rfl
  obtain ⟨-, r, hr⟩ := hloop.ends ((s.afterIterations i.gen k).candidate i.gen F)
    (s.afterIterations i.gen (k + 1))
  exact ⟨fun n hn => ⟨_, hloop.run_of_rejectsFor hs (hrej hn), (hs.afterIterations _ _).executing⟩,
    _, r, (hloop.run_succ_eq_repeatExec hs (hrej le_rfl)).trans hrepeat, hrepeat, hr,
    hloop.finish_g32 _ _, hloop.finish_g64 _ _⟩

end Sys2Proof.Machine

/-! # The sampler's responses (43_disk_gaussian_sampler.md R161 to R172, 60_exceptions.md R194)

Each command ends as its `finish` says of the accepted point (`IsSampler.ends_of_acceptsAfter`).
What is left is the response that `finish` makes: of three numbers, of two results, or of a fault. -/

namespace Sys2Proof.Machine

/-! ### Responses -/

theorem drawsAfter_eq_ite (n : Nat) (v : Fp) :
    drawsAfter n v = if v = .nan then n + 1 else n := by
  cases v <;> simp [drawsAfter, Fp.isNan]

theorem State.afterIterations_draws (g : Gen) (k : Nat) (s : State) :
    (s.afterIterations g k).draws = s.draws := by
  obtain ⟨-, -, -, -, -, -, -, -, hdraws⟩ := s.afterIterations_frame g k
  exact hdraws

theorem State.afterIterations_radius (g : Gen) (k : Nat) (F : Fmt) (s : State) :
    (s.afterIterations g k).radius F = .unpack F s.arg := by
  rw [State.radius, (sameInterface_afterIterations g k s).arg]

/-- Two results after the loop: each NaN among them takes the next draw of those the command found
(42_fp_conversion_and_reals.md R129, log 4). -/
theorem State.afterIterations_respondPair (g : Gen) (F : Fmt) (k : Nat) (v0 v1 : Fp) (s : State) :
    let n1 := if v0 = .nan then s.draws + 1 else s.draws
    (s.afterIterations g k).respondPair F v0 v1 = { s.afterIterations g k with
      phase := .responding
        ⟨.ok, v0.pack F (Config.nanDraw s.draws), v1.pack F (Config.nanDraw n1), 0⟩
      draws := if v1 = .nan then n1 + 1 else n1 } := by
  simp only [State.respondPair, drawsAfter_eq_ite, State.afterIterations_draws]
  rfl

/-- Results that are no NaN draw no encoding (log 4). -/
theorem State.respondTriple_of_ne_nan {v0 v1 v2 : Fp} (h0 : v0 ≠ .nan) (h1 : v1 ≠ .nan)
    (h2 : v2 ≠ .nan) (F : Fmt) (d : Word64) (s : State) : s.respondTriple F v0 v1 v2 =
      { s with phase := .responding ⟨.ok, v0.pack F d, v1.pack F d, v2.pack F d⟩ } := by
  simp only [State.respondTriple, resultWord, drawsAfter_of_ne_nan h0, drawsAfter_of_ne_nan h1,
    drawsAfter_of_ne_nan h2, Fp.pack_eq_of_ne_nan h0 F _ d, Fp.pack_eq_of_ne_nan h1 F _ d,
    Fp.pack_eq_of_ne_nan h2 F _ d]
  rfl

/-! ### The point of `DISK` -/

/-- The squared radius that an iteration accepts is a real number (43_disk_gaussian_sampler.md
R162). -/
theorem State.candidate_accepted_iff (g : Gen) (F : Fmt) (s : State) :
    (s.candidate g F).accepted F = true ↔ ∃ r : ℝ, (s.candidate g F).s.isReal r ∧ r ≤ 1 := by
  obtain ⟨-, -, -, hpoint⟩ := acceptedPointInDisk
  exact Candidate.accepted_iff (hpoint g F s).1

/-- Settles O49: no coordinate is a NaN, and neither is a squared radius that is accepted. -/
theorem diskReturnsAcceptedPoint : Obligations.DiskReturnsAcceptedPoint := by
  refine fun g F => ⟨decode_eq_ok_iff.2 (by cases g <;> cases F <;> decide), fun s => ?_,
    fun s k d hacc => (isSampler_disk g F).ends_of_acceptsAfter hacc ?_⟩
  · rw [State.candidate_accepted_iff, State.candidate_eq]
    rfl
  · obtain ⟨r, hr, -⟩ := (State.candidate_accepted_iff g F _).1 hacc.2
    rw [State.candidate_eq] at hr
    simp only [Instr.gen, State.candidate_eq]
    exact State.respondTriple_of_ne_nan (snorm_ne_nan g F _) (snorm_ne_nan g F _) hr.ne_nan F d _

/-! ### The four transforms of a point whose `s` is not zero -/

section
variable {F : Fmt} {c : Candidate} (factor : Fmt → Fp → Fp) (hc : c.s.eq0 = false)
include hc

theorem finishPoint_of_ne_zero (u : State) : finishPoint F factor c u =
    u.respondPair F (.mul F c.x (factor F c.s)) (.mul F c.y (factor F c.s)) := by
  simp [finishPoint, hc]

theorem finishScaled_of_ne_zero (g : Gen) (k : Nat) (s : State) :
    finishScaled F factor c (s.afterIterations g k) = (s.afterIterations g k).respondPair F
      (.mul F (.mul F c.x (factor F c.s)) (.unpack F s.arg))
      (.mul F (.mul F c.y (factor F c.s)) (.unpack F s.arg)) := by
  simp [finishScaled, hc, State.afterIterations_radius]

end

/-- Settles O50: `finishPoint` with the factor of `GAUSS`. -/
theorem gaussReturnsTransform : Obligations.GaussReturnsTransform :=
  fun g F => ⟨decode_eq_ok_iff.2 (by cases g <;> cases F <;> decide), fun s k hacc hc =>
    (isSampler_gauss g F).ends_of_acceptsAfter hacc
      ((finishPoint_of_ne_zero gaussFactor hc _).trans
        (s.afterIterations_respondPair g F (k + 1) _ _))⟩

/-- Settles O51: `finishScaled` with the factor of `GAUSS`. -/
theorem gaussrReturnsScaledTransform : Obligations.GaussrReturnsScaledTransform :=
  fun g F => ⟨decode_eq_ok_iff.2 (by cases g <;> cases F <;> decide), fun s k hacc hc =>
    (isSampler_gaussr g F).ends_of_acceptsAfter hacc
      ((finishScaled_of_ne_zero gaussFactor hc g (k + 1) s).trans
        (s.afterIterations_respondPair g F (k + 1) _ _))⟩

/-- Settles O52: `finishPoint` with the factor of `EXPO`. -/
theorem expoReturnsTransform : Obligations.ExpoReturnsTransform :=
  fun g F => ⟨decode_eq_ok_iff.2 (by cases g <;> cases F <;> decide), fun s k hacc hc =>
    (isSampler_expo g F).ends_of_acceptsAfter hacc
      ((finishPoint_of_ne_zero expoFactor hc _).trans
        (s.afterIterations_respondPair g F (k + 1) _ _))⟩

/-- Settles O53: `finishScaled` with the factor of `EXPO`. -/
theorem exporReturnsScaledTransform : Obligations.ExporReturnsScaledTransform :=
  fun g F => ⟨decode_eq_ok_iff.2 (by cases g <;> cases F <;> decide), fun s k hacc hc =>
    (isSampler_expor g F).ends_of_acceptsAfter hacc
      ((finishScaled_of_ne_zero expoFactor hc g (k + 1) s).trans
        (s.afterIterations_respondPair g F (k + 1) _ _))⟩

/-! ### A point whose `s` is zero -/

section
variable {F : Fmt} {c : Candidate} (factor : Fmt → Fp → Fp) (hc : c.s.eq0 = true) (u : State)
include hc

theorem finishPoint_of_zero : finishPoint F factor c u = u.raise .domainError := if_pos hc

theorem finishScaled_of_zero : finishScaled F factor c u = u.raise .domainError := if_pos hc

end

section
variable (F : Fmt)

/-- A zero is encoded as its sign says (42_fp_conversion_and_reals.md R126). -/
theorem Fp.pack_zero (neg : Bool) (d : Word64) : (Fp.zero F neg).pack F d = signedZero F neg := by
  cases F <;> cases neg <;> rfl

theorem Fp.zero_ne_nan (neg : Bool) : Fp.zero F neg ≠ .nan := nofun

/-- The sign of a product with a zero (42_fp_conversion_and_reals.md R139). -/
theorem Fp.mul_zero_right (na nb : Bool) (m : Nat) (e : Int) :
    Fp.mul F (.fin na m e) (.zero F nb) = .zero F (na ^^ nb) :=
  Fp.mul_of_eq_zero F (Fp.isReal_fin na m e) (Fp.zero_isReal F nb) (mul_zero _)

theorem Fp.mul_zero_left (na nb : Bool) (m : Nat) (e : Int) :
    Fp.mul F (.zero F na) (.fin nb m e) = .zero F (na ^^ nb) :=
  Fp.mul_of_eq_zero F (Fp.zero_isReal F na) (Fp.isReal_fin nb m e) (zero_mul _)

theorem candidateOf_zero : candidateOf F (.zero F false) (.zero F false) =
    ⟨.zero F false, .zero F false, .zero F false⟩ := by
  have hsq : Fp.mul F (.zero F false) (.zero F false) = .zero F false :=
    Fp.mul_zero_right F false false 0 F.minQuantum
  have hsum : Fp.add F (.zero F false) (.zero F false) = .zero F false :=
    Fp.add_of_eq_zero F (Fp.zero_isReal F false) (Fp.zero_isReal F false) (add_zero 0)
  rw [candidateOf, hsq, hsum]

end

/-- An accepted point whose `s` is zero is the origin, without a minus sign
(43_disk_gaussian_sampler.md R162). -/
theorem State.candidate_of_eq_zero {g : Gen} {F : Fmt} {s : State}
    (hacc : (s.candidate g F).accepted F = true) (hs : (s.candidate g F).s.eq0 = true) :
    s.candidate g F = ⟨.zero F false, .zero F false, .zero F false⟩ := by
  obtain ⟨-, -, -, hpoint⟩ := acceptedPointInDisk
  obtain ⟨x, y, r, -, -, hr, -, -, -, -, -, -, -, houts⟩ := (hpoint g F s).2 hacc
  obtain ⟨hx, hy⟩ := houts.1 (hr.unique (Fp.eq0_iff.1 hs))
  rw [State.candidate_eq, hx, hy, snorm_zero]
  exact candidateOf_zero F

/-- Settles O54: the test of the transforms comes before everything else, and `DISK` returns the
origin. -/
theorem domainErrorKeepsDraws : Obligations.DomainErrorKeepsDraws := by
  refine ⟨rfl, fun g F s k hacc hs => ⟨fun i hi => ?_, ?_⟩⟩
  · simp only [List.mem_cons, List.not_mem_nil, or_false] at hi
    rcases hi with rfl | rfl | rfl | rfl
    · exact (isSampler_gauss g F).ends_of_acceptsAfter hacc (finishPoint_of_zero _ hs _)
    · exact (isSampler_gaussr g F).ends_of_acceptsAfter hacc (finishScaled_of_zero _ hs _)
    · exact (isSampler_expo g F).ends_of_acceptsAfter hacc (finishPoint_of_zero _ hs _)
    · exact (isSampler_expor g F).ends_of_acceptsAfter hacc (finishScaled_of_zero _ hs _)
  · refine ((isSampler_disk g F).ends_of_acceptsAfter hacc ?_).2
    have hzero := Fp.zero_ne_nan F false
    simp only [Instr.gen, State.candidate_of_eq_zero hacc.2 hs,
      State.respondTriple_of_ne_nan hzero hzero hzero F 0, Fp.pack_zero]
    rfl

/-! ### A point on the circle (43_disk_gaussian_sampler.md R172)

The logarithm of 1.0 is `+0`, so that either factor is `-0` and turns the sign of a coordinate. -/

section
variable (F : Fmt)

theorem gaussFactor_one : gaussFactor F (.one F) = .zero F true := by
  rw [gaussFactor, Fp.ln_one]
  cases F <;> decide +kernel

theorem expoFactor_one : expoFactor F (.one F) = .zero F true := by
  rw [expoFactor, Fp.ln_one]
  cases F <;> decide +kernel

theorem one_eq0 : (Fp.one F).eq0 = false := by cases F <;> decide

theorem State.respondPair_zeros (n0 n1 : Bool) (u : State) :
    u.respondPair F (.zero F n0) (.zero F n1) =
      { u with phase := .responding ⟨.ok, signedZero F n0, signedZero F n1, 0⟩ } := by
  simp only [State.respondPair, resultWord, Fp.pack_zero]
  rfl

end

section
variable {F : Fmt} {factor : Fmt → Fp → Fp} (hfactor : factor F (.one F) = .zero F true)
  {c : Candidate} (hs : c.s = .one F) {nx ny : Bool} {mx my : Nat} {ex ey : Int}
  (hx : c.x = .fin nx mx ex) (hy : c.y = .fin ny my ey)
include hfactor hs hx hy

theorem finishPoint_of_one (u : State) : finishPoint F factor c u =
    { u with phase := .responding ⟨.ok, signedZero F (!nx), signedZero F (!ny), 0⟩ } := by
  rw [finishPoint_of_ne_zero factor (by rw [hs, one_eq0]), hs, hx, hy, hfactor, Fp.mul_zero_right,
    Fp.mul_zero_right, State.respondPair_zeros, Bool.xor_true, Bool.xor_true]

theorem finishScaled_of_one {s : State} {nr : Bool} {mr : Nat} {er : Int}
    (hr : Fp.unpack F s.arg = .fin nr mr er) (g : Gen) (k : Nat) :
    finishScaled F factor c (s.afterIterations g k) = { s.afterIterations g k with
      phase := .responding ⟨.ok, signedZero F (!nx ^^ nr), signedZero F (!ny ^^ nr), 0⟩ } := by
  rw [finishScaled_of_ne_zero factor (by rw [hs, one_eq0]), hs, hx, hy, hr, hfactor,
    Fp.mul_zero_right, Fp.mul_zero_right, Fp.mul_zero_left, Fp.mul_zero_left,
    State.respondPair_zeros, Bool.xor_true, Bool.xor_true]

end

/-- Settles O56: an accepted point has finite coordinates, and both factors are `-0`. -/
theorem boundaryPointGivesSignedZeros : Obligations.BoundaryPointGivesSignedZeros := by
  intro g F s k hacc c hs
  obtain ⟨-, -, -, hpoint⟩ := acceptedPointInDisk
  obtain ⟨-, -, -, ⟨nx, mx, ex, hx, -⟩, ⟨ny, my, ey, hy, -⟩, -⟩ := (hpoint g F _).2 hacc.2
  refine ⟨nx, ny, mx, my, ex, ey, hx, hy, fun i hi => ?_, fun i hi nr mr er hr => ?_⟩
  · simp only [List.mem_cons, List.not_mem_nil, or_false] at hi
    rcases hi with rfl | rfl
    · exact (isSampler_gauss g F).ends_of_acceptsAfter hacc
        (finishPoint_of_one (gaussFactor_one F) hs hx hy _)
    · exact (isSampler_expo g F).ends_of_acceptsAfter hacc
        (finishPoint_of_one (expoFactor_one F) hs hx hy _)
  · simp only [List.mem_cons, List.not_mem_nil, or_false] at hi
    rcases hi with rfl | rfl
    · exact (isSampler_gaussr g F).ends_of_acceptsAfter hacc
        (finishScaled_of_one (gaussFactor_one F) hs hx hy hr g (k + 1))
    · exact (isSampler_expor g F).ends_of_acceptsAfter hacc
        (finishScaled_of_one (expoFactor_one F) hs hx hy hr g (k + 1))

/-! ### The radius 1.0 (43_disk_gaussian_sampler.md R166, R169) -/

/-- A canonical value times 1.0 is the value itself, infinities, NaN and the sign of a zero
included. -/
theorem Fp.mul_one_right {F : Fmt} {a : Fp} (ha : a.canonical F) : Fp.mul F a (.one F) = a := by
  obtain ⟨m, e, hone⟩ : ∃ m e, Fp.one F = .fin false m e := by
    obtain ⟨neg, m, e, h, -⟩ := one_isReal F
    exact ⟨m, e, by rw [h, Fp.cvt_sign h]; rfl⟩
  have hm : m ≠ 0 := by
    have := one_eq0 F
    rw [hone] at this
    simpa [Fp.eq0] using this
  match a with
  | .nan => rfl
  | .inf neg => simp [hone, Fp.mul, hm]
  | .fin neg 0 d =>
    obtain ⟨-, -, -, hsub⟩ := ha
    obtain rfl : d = F.minQuantum := hsub (Nat.two_pow_pos _)
    rw [hone]
    exact (Fp.mul_zero_left F neg false m e).trans (by rw [Bool.xor_false]; rfl)
  | .fin neg (n + 1) d =>
    have hr := Fp.isReal_fin neg (n + 1) d
    have hself := (Fp.mul_rounds (F := F) hr (one_isReal F)).isReal_self (by
      rw [mul_one]
      exact ⟨_, ha, hr⟩)
    rw [mul_one] at hself
    exact (Fp.canonical_mul F _ _).ext ha hself hr (finReal_eq_zero_iff.not.2 n.succ_ne_zero)

theorem finishScaled_of_radius_one {F : Fmt} {u : State} (hu : u.radius F = .one F)
    (factor : Fmt → Fp → Fp) (c : Candidate) :
    finishScaled F factor c u = finishPoint F factor c u := by
  simp only [finishScaled, finishPoint, hu, Fp.mul_one_right (Fp.canonical_mul F _ _)]

/-- Two endings that agree wherever the loop can lead make the same command. -/
theorem withDisk_congr {g : Gen} {F : Fmt} {finish finish' : Candidate → State → State} {s : State}
    (h : ∀ c k, finish c (s.afterIterations g k) = finish' c (s.afterIterations g k)) :
    withDisk g F finish s = withDisk g F finish' s := by
  rcases withDisk_cases g F finish s with ⟨k, hk, hacc, hrun⟩ | ⟨hrej, hrun⟩
  · rw [hrun, withDisk_of_acceptsAfter finish' hk hacc, h]
  · rw [hrun, withDisk, diskLoop_of_rejects hrej]

/-- Settles O57: the loop keeps the operand, and the multiplication by 1.0 is exact. -/
theorem unitRadiusIsIdentity : Obligations.UnitRadiusIsIdentity := by
  intro g F s hone
  have hend (factor : Fmt → Fp → Fp) :
      withDisk g F (finishScaled F factor) s = withDisk g F (finishPoint F factor) s :=
    withDisk_congr fun c k => finishScaled_of_radius_one
      ((s.afterIterations_radius g k F).trans hone) factor c
  exact ⟨hend gaussFactor, hend expoFactor⟩

end Sys2Proof.Machine

/-! # Faults and the state after reset (60_exceptions.md R190, R191, R196 to R198)

The three grounds of R66 are the three checks of `CommandFields.wellFormed`, each negated, so a word
with one of them decodes to no command and the block raises `IllegalCommand`. And every transition of
a block that has been reset answers a next state, because the command in the block always does. -/

namespace Sys2Proof

/-! ### Illegal words -/

/-- The three grounds of 30_encoding.md R66. -/
theorem CommandFields.wellFormed_eq_false_iff (f : CommandFields) :
    f.wellFormed = false ↔
      f.rsv ≠ 0 ∨ f.opcode ∉ plainOpcodes ++ floatOpcodes ∨
        (f.opcode ∈ plainOpcodes ∧ f.fsel = 1) := by
  have hreserved : f.reservedClear = false ↔ f.rsv ≠ 0 := by simp [CommandFields.reservedClear]
  have hopcode : f.opcodeAssigned = false ↔ f.opcode ∉ plainOpcodes ++ floatOpcodes := by
    simp [CommandFields.opcodeAssigned]
  have hbit : f.fsel ≠ 0 ↔ f.fsel = 1 := by
    rcases BitVec.eq_zero_or_eq_one f.fsel with h | h <;> simp [h]
  have hfsel : f.fselAllowed = false ↔ f.opcode ∈ plainOpcodes ∧ f.fsel = 1 := by
    rw [and_comm, ← hbit]
    simp [CommandFields.fselAllowed]
  rw [CommandFields.wellFormed, Bool.and_eq_false_iff, Bool.and_eq_false_iff, hreserved, hopcode,
    hfsel, or_assoc]

namespace Machine

/-- An illegal word in the block runs no command: the block raises `IllegalCommand`
(60_exceptions.md R191). -/
theorem runCommand_of_illegal {s : State}
    (h : (CommandFields.ofWord s.cmd).wellFormed = false) :
    runCommand s = .next (s.raise .illegalCommand) := by
  rcases runCommand_cases s with ⟨i, hdec, -⟩ | ⟨e, -, hrun⟩
  · have hlegal := (legal_iff_wellFormed s.cmd).1 ⟨i, hdec⟩
    exact nomatch hlegal.symm.trans h
  · exact hrun

theorem runBlock_idle_cons {s : State} (hp : s.phase = .idle) {c : Command} {rest : List Command}
    (hc : s.commands = c :: rest) : runBlock s = runCommand (s.accept c rest) := by
  simp [runBlock, hp, hc]

/-- Settles O6: the accepted word has one of the three grounds, so its fields are not well formed. -/
theorem illegalWordIsReported : Obligations.IllegalWordIsReported := by
  refine ⟨rfl, fun s c rest hs hp hc hground => ?_⟩
  have hillegal : (CommandFields.ofWord (s.accept c rest).cmd).wellFormed = false :=
    (CommandFields.wellFormed_eq_false_iff (CommandFields.ofWord c.cmd)).2 hground
  calc step s = runBlock s := step_live hs
    _ = runCommand (s.accept c rest) := runBlock_idle_cons hp hc
    _ = .next ((s.accept c rest).raise .illegalCommand) := runCommand_of_illegal hillegal

/-! ### No transition stops the machine -/

theorem runCommand_next_resetSeen {s : State} (hs : s.resetSeen = true) :
    ∃ t, runCommand s = .next t ∧ t.resetSeen = true := by
  obtain ⟨t, ht⟩ := runCommand_next s
  exact ⟨t, ht, (runCommand_sameInterface ht).resetSeen.trans hs⟩

/-- Settles O10: along `step_cases`, where the two cases before the first reset do not arise. -/
theorem neverStopsOnceReset : Obligations.NeverStopsOnceReset := by
  intro s hs
  rcases step_cases s with ⟨-, hstep⟩ | ⟨-, hnot, -⟩ | ⟨-, hnot, -⟩ | ⟨-, -, -, hstep⟩ |
    ⟨c, rest, -, -, -, hstep⟩ | ⟨-, -, hstep⟩ | ⟨r, -, -, -, hstep⟩ | ⟨r, -, -, -, hstep⟩
  · exact ⟨_, hstep, State.resetBlock_resetSeen s⟩
  · exact nomatch hs.symm.trans hnot
  · exact nomatch hs.symm.trans hnot
  · exact ⟨_, hstep, hs⟩
  · exact hstep ▸ runCommand_next_resetSeen (s := s.accept c rest) hs
  · exact hstep ▸ runCommand_next_resetSeen hs
  · exact ⟨_, hstep, (s.takeResponse_resetSeen r).trans hs⟩
  · exact ⟨_, hstep, hs⟩

/-! ### The state after reset -/

/-- Settles O12: the block is idle after reset, and nothing has been delivered. -/
theorem invAtReset : Obligations.InvAtReset :=
  inv_of_idle State.reset_phase (by simp)

end Machine

end Sys2Proof

/-! # Reset and the time before it (70_reset_and_hazards.md R220 to R224)

Reset has the first word in a transition: with `rst` high it is `State.resetBlock` whatever the block
is doing, so what it restores is what `State.reset` holds. With `rst` low and no reset seen it is
`beforeReset`. -/

namespace Sys2Proof.Machine

/-! ### The values reset restores -/

/-- The reset table of `xorshift_prng_32` (R220). -/
theorem State.reset_g32 :
    State.reset.g32 = ⟨0x075BCD15, 0x159A55E5, 0x1F123BB5, 0x05491333⟩ := rfl

/-- The reset table of `xorshift_prng_64` (R220): what the 21 warm-up steps leave. -/
theorem State.reset_g64 :
    State.reset.g64 = ⟨10, #v[0x03AD9336560B266C, 0x03AD933658BD6AB5, 0x03AD9336560B266C,
      0x03AD933658BD6AB5, 0x03AD9336560B266C, 0x03AD933658BD6AB5, 0x03AD9336560B266C,
      0x03AD933658BD6AB5, 0x03AD9336560B266C, 0x03AD933658BD6AB5, 0x03AD9336560B266C,
      0, 0, 0, 0, 0]⟩ := by
  decide +kernel

theorem State.reset_live : State.reset.live := ⟨State.reset_rst, State.reset_resetSeen⟩

/-- Settles O9: the words are read off the table `State.reset_g64`, index by index. -/
theorem resetStateIsTheTable : Obligations.ResetStateIsTheTable := by
  refine ⟨State.reset_g32, congrArg G64.p State.reset_g64, ?_, State.reset_phase,
    rspValid_idle State.reset_live State.reset_phase⟩
  rw [State.reset_g64]
  decide

/-! ### A transition with `rst` high -/

theorem cmdReady_of_rst {s : State} (hr : s.rst = true) : s.cmdReady = false := by
  simp [State.cmdReady, hr]

theorem rspValid_of_rst {s : State} (hr : s.rst = true) : s.rspValid = false := by
  simp [State.rspValid, hr]

theorem step_of_rst {s : State} (hr : s.rst = true) : step s = .next s.resetBlock := by
  simp [step, transition, hr]

/-- Settles O8: a transition with `rst` high is `State.resetBlock`, which takes the generators from
`State.reset` and the host's side from the state before. -/
theorem resetWinsAndRestores : Obligations.ResetWinsAndRestores := by
  intro s hr
  exact ⟨cmdReady_of_rst hr, rspValid_of_rst hr, s.resetBlock, step_of_rst hr,
    s.resetBlock_phase, s.resetBlock_resetSeen,
    s.resetBlock_g32.trans State.reset_g32, s.resetBlock_g64.trans State.reset_g64,
    s.resetBlock_commands, s.resetBlock_received, s.resetBlock_rst, s.resetBlock_rspReady,
    s.resetBlock_draws⟩

/-! ### A transition before the first reset -/

theorem beforeReset_nil {s : State} (hc : s.commands = []) : beforeReset s = .next s := by
  simp [beforeReset, hc]

theorem beforeReset_of_ne_nil {s : State} (hc : s.commands ≠ []) :
    beforeReset s = .refused .commandBeforeReset := by
  obtain ⟨c, rest, hcons⟩ := List.exists_cons_of_ne_nil hc
  simp [beforeReset, hcons]

theorem step_before_reset {s : State} (hseen : s.resetSeen = false) (hr : s.rst = false) :
    step s = beforeReset s := by
  simp [step, transition, hr, hseen]

/-- Settles O11: the two branches of `beforeReset`. -/
theorem noCommandBeforeReset : Obligations.NoCommandBeforeReset := by
  intro s hseen hr
  rw [step_before_reset hseen hr]
  exact ⟨beforeReset_of_ne_nil, beforeReset_nil⟩

end Sys2Proof.Machine
